-- ==== Sys2Proof/Word.lean ====
section
/-! DEFINITION. The word types of the core: bytes, 32-bit words, blocks, keys, descriptors, slot indices and addresses. -/

namespace Sys2Proof

/-- A byte, the element of every byte string and of GF(2^8) (R11, R80). -/
abbrev Byte := BitVec 8

/-- A 32-bit word: a Magma half, a Magma round-key word, a status register (R11, R40). -/
abbrev Word := BitVec 32

/-- A 16-byte string held as the 128-bit integer whose least significant byte is byte 0 (R13, R51):
a Kuznechik block, the XTS tweak. -/
abbrev Block := BitVec 128

/-- An 8-byte Magma block held as the 64-bit integer whose least significant byte is byte 0 (R13). -/
abbrev HalfBlock := BitVec 64

/-- A 32-byte key or mask held as the 256-bit integer whose least significant byte is byte 0 (R25, R51). -/
abbrev KeyBytes := BitVec 256

/-- A command descriptor, W0 most significant (R65). -/
abbrev Descriptor := BitVec 160

/-- A key-slot index as the descriptor carries it, 4 bits (R66). -/
abbrev SlotIx := BitVec 4

/-- A byte address in `MEM`, 32 bits (R42, R62). -/
abbrev Addr := BitVec 32

end Sys2Proof
end

