-- ==== Sys2Proof/Machine/Bytes.lean ====
section
/-! DEFINITION. Byte strings and the integers they spell (R12): a string of n bytes is held as the integer whose least
significant byte is byte 0, and turned into a list of bytes at the memory boundary. -/

namespace Sys2Proof.Machine

/-- Byte j of a byte string (R12, R13). -/
def byteAt (v : BitVec n) (j : Nat) : Byte :=
  v.extractLsb' (8 * j) 8

/-- `le_n(v)`: the n bytes of a byte string, byte 0 first (R12). -/
def toBytes (n : Nat) (v : BitVec m) : List Byte :=
  (List.range n).map (byteAt v)

/-- The integer `LE(b)` of a list of bytes (R12). -/
def leNat : List Byte → Nat
  | [] => 0
  | b :: bs => b.toNat + 256 * leNat bs

/-- `LE(b)` in n bits: a byte string of n/8 bytes from the list of its bytes; missing high bytes are zero. -/
def ofBytes (n : Nat) (b : List Byte) : BitVec n :=
  BitVec.ofNat n (leNat b)

/-- The 16-byte block with byte j equal to f j. -/
def blockOf (f : Nat → Byte) : Block :=
  f 15 ++ f 14 ++ f 13 ++ f 12 ++ f 11 ++ f 10 ++ f 9 ++ f 8 ++
    f 7 ++ f 6 ++ f 5 ++ f 4 ++ f 3 ++ f 2 ++ f 1 ++ f 0

/-- `LE32(b[i..i+4))` (R12). -/
def le32At (v : BitVec n) (i : Nat) : Word :=
  byteAt v (i + 3) ++ byteAt v (i + 2) ++ byteAt v (i + 1) ++ byteAt v i

/-- `BE32(b[i..i+4))` (R12). -/
def be32At (v : BitVec n) (i : Nat) : Word :=
  byteAt v i ++ byteAt v (i + 1) ++ byteAt v (i + 2) ++ byteAt v (i + 3)

/-- A 4-byte string with its bytes in reverse order: `be_4(w)` read as `le_4` (R12). -/
def rev32 (w : Word) : Word :=
  be32At w 0

/-- The 32-byte string whose eight little-endian words are f 0 .. f 7 (R18). -/
def keyOfWords (f : Nat → Word) : KeyBytes :=
  f 7 ++ f 6 ++ f 5 ++ f 4 ++ f 3 ++ f 2 ++ f 1 ++ f 0

/-- A 160-byte draw as the ten blocks `d[16(i-1) .. 16i)`, i = 1 to 10 (R134). -/
def drawBlocks (d : BitVec 1280) : List Block :=
  (List.range 10).map fun i => d.extractLsb' (128 * i) 128

/-- A 32-byte string as its eight little-endian words `LE32(d[4(i-1) .. 4i))`, i = 1 to 8 (R166). -/
def drawWords (d : KeyBytes) : List Word :=
  (List.range 8).map fun i => d.extractLsb' (32 * i) 32

end Sys2Proof.Machine
end

