-- ==== Sys2Proof/Config.lean ====
section
/-! DEFINITION. What is fixed for one run of the core: the configuration parameters of R7, and the free values the
spec puts under no law (entropy answers of R10, the unspecified bytes of R203). -/

namespace Sys2Proof

/-- The implementation parameters of R7, sampled at reset and constant until the next reset (R8, R23, R243; for `N_SLOTS`
and `MEM_SIZE` that is the model's choice, notes/assumptions/24.md). The two resource limits are the option store's signed
64-bit values, as bit patterns. -/
structure Config where
  /-- `N_SLOTS`, the number of key slots. -/
  nSlots : Nat
  /-- `MEM_SIZE`, the size of `MEM` in bytes. -/
  memSize : Nat
  /-- `COMPAT`, the Magma byte-order convention (true = 1, legacy-library-compatible). -/
  compat : Bool
  /-- `KUZ_RESOURCE`, the initial resource counter of a Kuznechik key. -/
  kuzResource : BitVec 64
  /-- `MAGMA_RESOURCE`, the initial resource counter of a Magma key. -/
  magmaResource : BitVec 64
  deriving DecidableEq, Repr

/-- The constraints of R7 and R8: the model refuses a configuration outside them. -/
def Config.valid (c : Config) : Bool :=
  decide (2 ≤ c.nSlots) && decide (c.nSlots ≤ 16) && decide (64 ≤ c.memSize) && decide (c.memSize ≤ 2 ^ 32) &&
    decide (c.kuzResource.toNat < 2 ^ 63) && decide (c.magmaResource.toNat < 2 ^ 63)

/-- The configuration the spec's own examples use (R7's last column).
DESIGN CHOICE, unsafe: SRC gives none of the numbers (notes/assumptions/1.md). -/
def Config.examples : Config where
  nSlots := 4
  memSize := 4096
  compat := false
  kuzResource := 1000
  magmaResource := 1000

/-- FREE VALUE. What the entropy source answers to its n-th request, when the environment's list of answers holds
none: `none` is `Err`, `some v` is `Ok` of the bytes of v. Under no law (R10, U5; notes/assumptions/3.md). -/
opaque Config.entropyAnswer : Nat → Option Nat

/-- FREE VALUE. The n-th unspecified byte the core leaves in `MEM` (R203, U6; notes/assumptions/4.md). -/
opaque Config.freeByte : Nat → Byte

end Sys2Proof
end

