-- ==== Sys2Proof/Syntax.lean ====
section
/-! DEFINITION. The 21 commands of the core (R69), one constructor per row of spec/opcode_table.json, their operands in
the order of the assembler syntax (R76). -/

namespace Sys2Proof

/-- A command with its operands, after decoding (R69, R76). -/
inductive Instr where
  /-- `GFMUL x, y, dst` (R94). -/
  | gfmul (x y : Byte) (dst : Addr)
  /-- `TBUILD` (R95). -/
  | tbuild
  /-- `KCREATE ks, alg`; `alg` is any byte, judged by the command (R73, R104). -/
  | kcreate (ks : SlotIx) (alg : Byte)
  /-- `KLOAD ks, src` (R105). -/
  | kload (ks : SlotIx) (src : Addr)
  /-- `KSETMASK ks` (R106). -/
  | ksetmask (ks : SlotIx)
  /-- `KUNMASK ks` (R108). -/
  | kunmask (ks : SlotIx)
  /-- `KSETICODE ks` (R109). -/
  | kseticode (ks : SlotIx)
  /-- `KCHKICODE ks` (R110). -/
  | kchkicode (ks : SlotIx)
  /-- `KDESTROY ks` (R111). -/
  | kdestroy (ks : SlotIx)
  /-- `KZ.SCHED ks` (R138). -/
  | kzSched (ks : SlotIx)
  /-- `KZ.ENC ks, src, dst` (R141). -/
  | kzEnc (ks : SlotIx) (src dst : Addr)
  /-- `KZ.DEC ks, src, dst` (R142). -/
  | kzDec (ks : SlotIx) (src dst : Addr)
  /-- `KZ.REMASK ks` (R144). -/
  | kzRemask (ks : SlotIx)
  /-- `KZ.DELKEYS ks` (R145). -/
  | kzDelkeys (ks : SlotIx)
  /-- `MG.SCHED ks` (R168). -/
  | mgSched (ks : SlotIx)
  /-- `MG.ENC ks, src, dst` (R172). -/
  | mgEnc (ks : SlotIx) (src dst : Addr)
  /-- `MG.DEC ks, src, dst` (R173). -/
  | mgDec (ks : SlotIx) (src dst : Addr)
  /-- `MG.REMASK ks` (R175). -/
  | mgRemask (ks : SlotIx)
  /-- `MG.DELKEYS ks` (R176). -/
  | mgDelkeys (ks : SlotIx)
  /-- `XTS.ENC ks, kt, src, dst, len, iv, ivlen`; `ivlen` is any byte, judged by the command (R73, R200). -/
  | xtsEnc (ks kt : SlotIx) (src dst : Addr) (len : Word) (iv : Addr) (ivlen : Byte)
  /-- `XTS.DEC ks, kt, src, dst, len, iv, ivlen` (R201). -/
  | xtsDec (ks kt : SlotIx) (src dst : Addr) (len : Word) (iv : Addr) (ivlen : Byte)
  deriving DecidableEq, Repr

end Sys2Proof
end

