-- ==== Sys2Proof/Machine/State.lean ====
section
/-! DEFINITION. Every piece of state the spec gives the core (R20), the host's side of its ports, the reasons a step can
stop, and the state after reset (R44, R241). -/

namespace Sys2Proof.Machine

/-- `slot[k].alg`, with its encoding in R24; the value 3 never occurs (U14). -/
inductive Alg where
  /-- 0: no key instance. -/
  | empty
  /-- 1: Kuznechik, XOR masking. -/
  | kuz
  /-- 2: Magma, additive masking. -/
  | magma
  deriving DecidableEq, Repr

/-- One key slot of the masked-key register file: SRC's SecretKey with the ExpandedRoundKeys derived from it
(R24 to R31). The Kuznechik and the Magma arrays are kept apart and only those matching `alg` are read (R30). -/
structure Slot where
  /-- R24. -/
  alg : Alg
  /-- R25: 32 bytes. -/
  raw : KeyBytes
  /-- R25: 32 bytes; zeros while MASKED is clear. -/
  mask : KeyBytes
  /-- R26 bit 0, MASKED. -/
  masked : Bool
  /-- R26 bit 1, ICODE. -/
  icodeSet : Bool
  /-- R26 bit 2, SCHED. -/
  sched : Bool
  /-- R27. -/
  icode : Word
  /-- R28. -/
  res : BitVec 64
  /-- R29: `ek[1] .. ek[10]`. -/
  ek : List Block
  /-- R29: `em[1] .. em[10]`. -/
  em : List Block
  /-- R29: `dk[1] .. dk[10]`. -/
  dk : List Block
  /-- R29: `dm[1] .. dm[10]`. -/
  dm : List Block
  /-- R30: `fk[1] .. fk[8]`. -/
  fk : List Word
  /-- R30: `fm[1] .. fm[8]`. -/
  fm : List Word
  /-- R30: `ik[1] .. ik[8]`. -/
  ik : List Word
  /-- R30: `im[1] .. im[8]`. -/
  im : List Word
  /-- R31. -/
  rkicode : Word
  deriving DecidableEq, Repr

/-- A slot after reset (R44). The spec leaves `raw`, `mask` and the eight arrays unspecified.
DESIGN CHOICE, unsafe: they are zero here (notes/assumptions/2.md). -/
def Slot.blank : Slot where
  alg := .empty
  raw := 0
  mask := 0
  masked := false
  icodeSet := false
  sched := false
  icode := 0
  res := 0
  ek := List.replicate 10 0
  em := List.replicate 10 0
  dk := List.replicate 10 0
  dm := List.replicate 10 0
  fk := List.replicate 8 0
  fm := List.replicate 8 0
  ik := List.replicate 8 0
  im := List.replicate 8 0
  rkicode := 0

/-- The bytes of `MEM` that have been written since reset (R42, R63): pairs of an address and a byte, addresses
strictly rising. An address that is not listed holds no value the model knows. -/
abbrev Memory := List Host.Cell

/-- What the host, or for `reset` the platform, does next toward the idle core. A command and a host action are separate
atomic steps (R6, R64, R240, R247). -/
inductive HostAction where
  /-- Present a descriptor at the command port (R65). -/
  | command (d : Descriptor)
  /-- `HostWrite(addr, b)` (R64). -/
  | write (addr : Addr) (bytes : List Byte)
  /-- `HostRead(addr, n)` (R64). -/
  | read (addr : Addr) (n : Nat)
  /-- `HostStatus(off)` (R64). -/
  | status (off : Addr)
  /-- Assert the reset input, with what the option store then holds (R8, R240, R243); that it holds `N_SLOTS` and `MEM_SIZE`
  too is the model's choice (notes/assumptions/24.md). -/
  | reset (cfg : Config)
  deriving DecidableEq, Repr

/-- What the last host read returned to the host (R64). -/
inductive HostReply where
  /-- Nothing has been returned since reset. -/
  | idle
  /-- The bytes of a `HostRead`. -/
  | bytes (b : List Byte)
  /-- The register of a `HostStatus`. -/
  | word (w : Word)
  deriving DecidableEq, Repr

/-- The state of the core (R20), the configuration it was reset with (R23), and the model's own fields for the agents
outside it: the host's next actions and the last answer to it, the entropy source's next answers and how many
requests were made, and how many unspecified bytes were left in `MEM`. -/
structure State where
  /-- R7, R23: sampled at reset; no command changes it. -/
  cfg : Config
  /-- R24 to R31: the `N_SLOTS` key slots. -/
  slots : List Slot
  /-- R34: `TABLES_VALID`. While it is true the table store holds the contents of R91 and R92, which are constants. -/
  tablesValid : Bool
  /-- R36: `STATUS.code`. -/
  code : Byte
  /-- R37: `ERRINFO.sub`. -/
  errSub : Byte
  /-- R37: `ERRINFO.op`. -/
  errOp : Byte
  /-- R37: `ERRINFO.slot`. -/
  errSlot : SlotIx
  /-- R38: `FAULTS`. -/
  faults : Word
  /-- R39: `HALTED`. -/
  halted : Bool
  /-- R42: `MEM`. -/
  mem : Memory
  /-- The model's own: the host's next actions, first to come first (notes/assumptions/5.md). -/
  port : List HostAction
  /-- The model's own: the last answer to the host. -/
  reply : HostReply
  /-- The model's own: the entropy source's next answers, `none` for `Err`, `some v` for `Ok` of the bytes of v, as many
  as the environment has fixed; after them `Config.entropyAnswer` answers (notes/assumptions/3.md). -/
  entropy : List (Option Nat)
  /-- The model's own: how many `Fill` requests have been made. -/
  fills : Nat
  /-- The model's own: how many unspecified bytes have been left in `MEM` (notes/assumptions/4.md). -/
  freeBytes : Nat
  deriving DecidableEq, Repr

/-- The core's own errors, one constructor per row of R212; their code, sub-cause and reported slot are in
Machine/Flags.lean. No other pair of code and sub-cause occurs. An error is no stop of the model: the command ends with
the status registers written (R210, R218). -/
inductive CoreError where
  /-- `E_INTEGRITY` sub 0: the key's code does not match (R102). -/
  | keyMismatch (k : SlotIx)
  /-- `E_INTEGRITY` sub 1: the round keys' code does not match (R137, R167). -/
  | roundKeyMismatch (k : SlotIx)
  /-- `E_INTEGRITY` sub 2: no code was ever set (R102). -/
  | noIcode (k : SlotIx)
  /-- `E_RESOURCE` sub 0: the key of field `ks` (R103). -/
  | dataResource (ks : SlotIx)
  /-- `E_RESOURCE` sub 1: the XTS tweak key of field `kt` (R197). -/
  | tweakResource (kt : SlotIx)
  /-- `E_LENGTH` sub 0: `len` is no multiple of the block size (R197). -/
  | lenNotMultiple
  /-- `E_LENGTH` sub 1: `ivlen` is 0 or above 16 (R197). -/
  | ivLength
  /-- `E_LENGTH` sub 2: `src` does not lie inside `MEM` (R56). -/
  | srcRange
  /-- `E_LENGTH` sub 3: `dst` does not lie inside `MEM` (R56). -/
  | dstRange
  /-- `E_LENGTH` sub 4: `iv` does not lie inside `MEM` (R56). -/
  | ivRange
  /-- `E_ALLOC` sub 0: the slot of field `ks` is EMPTY. -/
  | emptyData (ks : SlotIx)
  /-- `E_ALLOC` sub 1: the slot of field `kt` is EMPTY. -/
  | emptyTweak (kt : SlotIx)
  /-- `E_CONFIG` sub 0: the slot belongs to the other engine. -/
  | wrongEngine (k : SlotIx)
  /-- `E_CONFIG` sub 1: KCREATE on an occupied slot. -/
  | occupied (k : SlotIx)
  /-- `E_CONFIG` sub 2: KLOAD on a slot whose ICODE is set. -/
  | alreadyLoaded (k : SlotIx)
  /-- `E_CONFIG` sub 3: the slot has no schedule. -/
  | unscheduled (k : SlotIx)
  /-- `E_CONFIG` sub 4: XTS with one slot for both keys. -/
  | sameSlot (ks : SlotIx)
  /-- `E_CONFIG` sub 5: KCREATE of no such algorithm. -/
  | badAlgorithm (k : SlotIx)
  /-- `E_ENTROPY` sub 0: a `Fill` request failed; `k` is field `ks` (R17, R212). -/
  | entropy (k : SlotIx)
  /-- `E_ILLEGAL` sub 0: no such opcode (R70). -/
  | badOpcode
  /-- `E_ILLEGAL` sub 1: a must-be-zero field is not zero (R71). -/
  | mustBeZero
  /-- `E_ILLEGAL` sub 2: a slot field is not below `N_SLOTS` (R72). -/
  | slotRange (k : SlotIx)
  /-- `E_NOTABLES` sub 0: the tables are needed and not built; sets HALTED (R221). -/
  | noTables
  /-- `E_NOTABLES` sub 1: refused because HALTED (R222). -/
  | isHalted
  deriving DecidableEq, Repr

/-- Why the MODEL stops. An error of the core is never one of these: it is a next state with an error code (R210). -/
inductive Fault where
  /-- Raised by every read of `MEM`, a command's or the host's, that meets a byte nothing has written since reset:
  R63 asks the model to stop there and not to assume a value. The core itself goes on. Safe. -/
  | unwrittenRead (addr : Nat)
  deriving DecidableEq, Repr

/-- What the model has no move for. -/
inductive Refusal where
  /-- Raised by exec's arm of a command that has no meaning yet. Safe. -/
  | notModelled (mnemonic : String)
  /-- Raised by a `HostWrite` or `HostRead` that does not lie inside `MEM`: R64 gives the host no such move. Safe. -/
  | hostOutsideMemory
  /-- Raised by a reset whose option store breaks R7's constraints: R8 has the model refuse it. Safe. -/
  | badConfiguration
  deriving DecidableEq, Repr

/-- The core after a reset that samples `cfg` (R44, R241): every slot EMPTY, no table, no error, nothing known of
`MEM`; the core idle, nothing presented. -/
def State.resetWith (cfg : Config) : State where
  cfg := cfg
  slots := List.replicate cfg.nSlots Slot.blank
  tablesValid := false
  code := 0
  errSub := 0
  errOp := 0
  errSlot := 0
  faults := 0
  halted := false
  mem := []
  port := []
  reply := .idle
  entropy := []
  fills := 0
  freeBytes := 0

/-- The core right after reset, with the configuration of the spec's examples (R7; notes/assumptions/1.md). -/
def State.reset : State :=
  State.resetWith Config.examples

end Sys2Proof.Machine
end

