-- ==== Sys2Proof/Machine/Flags.lean ====
section
/-! DEFINITION. The error table (R211, R212), the status registers as the host reads them (R36 to R41), and what a
completion writes into them (R218). -/

namespace Sys2Proof.Machine

/-- The error code (R211, R212). -/
def CoreError.code : CoreError → Nat
  | .keyMismatch _ => 1
  | .roundKeyMismatch _ => 1
  | .noIcode _ => 1
  | .dataResource _ => 2
  | .tweakResource _ => 2
  | .lenNotMultiple => 3
  | .ivLength => 3
  | .srcRange => 3
  | .dstRange => 3
  | .ivRange => 3
  | .emptyData _ => 4
  | .emptyTweak _ => 4
  | .wrongEngine _ => 5
  | .occupied _ => 5
  | .alreadyLoaded _ => 5
  | .unscheduled _ => 5
  | .sameSlot _ => 5
  | .badAlgorithm _ => 5
  | .entropy _ => 6
  | .badOpcode => 7
  | .mustBeZero => 7
  | .slotRange _ => 7
  | .noTables => 8
  | .isHalted => 8

/-- The sub-cause (R212). -/
def CoreError.sub : CoreError → Nat
  | .keyMismatch _ => 0
  | .roundKeyMismatch _ => 1
  | .noIcode _ => 2
  | .dataResource _ => 0
  | .tweakResource _ => 1
  | .lenNotMultiple => 0
  | .ivLength => 1
  | .srcRange => 2
  | .dstRange => 3
  | .ivRange => 4
  | .emptyData _ => 0
  | .emptyTweak _ => 1
  | .wrongEngine _ => 0
  | .occupied _ => 1
  | .alreadyLoaded _ => 2
  | .unscheduled _ => 3
  | .sameSlot _ => 4
  | .badAlgorithm _ => 5
  | .entropy _ => 0
  | .badOpcode => 0
  | .mustBeZero => 1
  | .slotRange _ => 2
  | .noTables => 0
  | .isHalted => 1

/-- The slot the error pertains to, 0 if none (R212). -/
def CoreError.slot : CoreError → SlotIx
  | .keyMismatch k => k
  | .roundKeyMismatch k => k
  | .noIcode k => k
  | .dataResource ks => ks
  | .tweakResource kt => kt
  | .lenNotMultiple => 0
  | .ivLength => 0
  | .srcRange => 0
  | .dstRange => 0
  | .ivRange => 0
  | .emptyData ks => ks
  | .emptyTweak kt => kt
  | .wrongEngine k => k
  | .occupied k => k
  | .alreadyLoaded k => k
  | .unscheduled k => k
  | .sameSlot ks => ks
  | .badAlgorithm k => k
  | .entropy k => k
  | .badOpcode => 0
  | .mustBeZero => 0
  | .slotRange k => k
  | .noTables => 0
  | .isHalted => 0

/-- The bit of `FAULTS` an error sets (R38). -/
def CoreError.faultBit (e : CoreError) : Word :=
  1#32 <<< e.code

/-- The code of an algorithm in `SLOTSTAT` (R24, R40). -/
def Alg.number : Alg → BitVec 2
  | .empty => 0
  | .kuz => 1
  | .magma => 2

/-- The algorithm KCREATE's operand names, if any (R104). -/
def algOfByte (b : Byte) : Option Alg :=
  if b = 1 then some .kuz else if b = 2 then some .magma else none

/-- `STATUS` (R36). -/
def State.statusWord (s : State) : Word :=
  0#21 ++ BitVec.ofBool s.cfg.compat ++ BitVec.ofBool s.tablesValid ++ BitVec.ofBool s.halted ++ s.code

/-- `ERRINFO` (R37). -/
def State.errinfoWord (s : State) : Word :=
  0#12 ++ s.errSlot ++ s.errOp ++ s.errSub

/-- `SLOTSTAT` of a slot (R40). -/
def Slot.statWord (sl : Slot) : Word :=
  0#27 ++ BitVec.ofBool sl.sched ++ BitVec.ofBool sl.icodeSet ++ BitVec.ofBool sl.masked ++ sl.alg.number

/-- Register r of a slot's group in the status space: `SLOTSTAT`, `RES_LO`, `RES_HI` at byte offsets 0, 4, 8; every
other offset of the group reads as 0 (R40, R41). -/
def Slot.statusRegister (sl : Slot) (r : Nat) : Word :=
  if r = 0 then sl.statWord
  else if r = 4 then sl.res.extractLsb' 0 32
  else if r = 8 then sl.res.extractLsb' 32 32
  else 0

/-- `HostStatus(off)`: the 32-bit register at a byte offset of the status space (R36 to R41, R64). -/
def State.statusAt (s : State) (off : Nat) : Word :=
  if off = 0x000 then s.statusWord
  else if off = 0x004 then s.errinfoWord
  else if off = 0x008 then s.faults
  else if off < 0x100 then 0
  else
    let k := (off - 0x100) / 0x10
    if k < s.cfg.nSlots then (s.slots.getD k Slot.blank).statusRegister ((off - 0x100) % 0x10) else 0

/-- Completion of the command whose opcode byte is `op`, with success (`none`) or an error: the one write of
`STATUS.code`, `ERRINFO` and `FAULTS` (R218). -/
def State.complete (s : State) (op : Byte) (e : Option CoreError) : State :=
  match e with
  | none => { s with code := 0, errSub := 0, errOp := op, errSlot := 0 }
  | some e =>
    { s with
      code := BitVec.ofNat 8 e.code
      errSub := BitVec.ofNat 8 e.sub
      errOp := op
      errSlot := e.slot
      faults := s.faults ||| e.faultBit }

/-- What an error does besides the completion: `E_NOTABLES` sub 0 sets HALTED (R221). -/
def State.haltOn (s : State) (e : CoreError) : State :=
  if e = .noTables then { s with halted := true } else s

end Sys2Proof.Machine
end

