-- ==== Sys2Proof/Machine/Ops.lean ====
section
/-! DEFINITION. The shared operations of every command: reading and writing `MEM` (R14), the key slots (R15), requests to
the entropy source (R10, R17), and the frame every command runs in: the ordered checks, the body, the completion or the
raise (R16, R217, R218). -/

namespace Sys2Proof.Machine

/-! ## Memory -/

/-- What an address of `MEM` that is not listed holds: nothing the model knows (R63; notes/assumptions/6.md). -/
def unlistedByte : Option Byte := none

/-- The byte at an address, if anything has written it since reset (R42, R63). -/
def memByte : Memory → Nat → Option Byte
  | [], _ => unlistedByte
  | (a', b) :: rest, a => if a = a' then some b else memByte rest a

/-- The memory with one byte written, in canonical form. -/
def memSet : Memory → Nat → Byte → Memory
  | [], a, b => [(a, b)]
  | (a', b') :: rest, a, b =>
    if a < a' then (a, b) :: (a', b') :: rest
    else if a = a' then (a, b) :: rest
    else (a', b') :: memSet rest a b

/-- The addresses rise strictly from a lower bound. -/
def risingFrom : Nat → Memory → Bool
  | _, [] => true
  | n, (a, _) :: rest => decide (n ≤ a) && risingFrom (a + 1) rest

/-- The canonical form: addresses strictly rising, and no entry equal to what an unlisted address reads as. -/
def Memory.wf (m : Memory) : Bool :=
  risingFrom 0 m && m.all fun c => decide (some c.2 ≠ unlistedByte)

/-- `MemWrite(addr, n, b)` (R14). -/
def memWrite : Memory → Nat → List Byte → Memory
  | m, _, [] => m
  | m, a, b :: bs => memWrite (memSet m a b) (a + 1) bs

/-- `MemRead(addr, n)` (R14): the bytes, or the first address that nothing has written (R63). -/
def memRead (m : Memory) : Nat → Nat → Except Nat (List Byte)
  | _, 0 => .ok []
  | a, n + 1 =>
    match memByte m a with
    | none => .error a
    | some b =>
      match memRead m (a + 1) n with
      | .error e => .error e
      | .ok bs => .ok (b :: bs)

/-- The state with bytes written to `MEM`. -/
def State.store (s : State) (a : Nat) (bs : List Byte) : State :=
  { s with mem := memWrite s.mem a bs }

/-- The state in which the n bytes at a are unspecified: each is a fresh free value (R203, U6;
notes/assumptions/4.md). -/
def State.scramble (s : State) (a n : Nat) : State :=
  { s.store a ((List.range n).map fun j => Config.freeByte (s.freeBytes + j)) with freeBytes := s.freeBytes + n }

/-! ## Key slots -/

/-- `slot[k]` (R15). An index at or above `N_SLOTS` is refused before any slot is read (R72). -/
def State.slotAt (s : State) (k : SlotIx) : Slot :=
  s.slots.getD k.toNat Slot.blank

/-- `slot[k] <- sl` (R15). -/
def State.setSlot (s : State) (k : SlotIx) (sl : Slot) : State :=
  { s with slots := s.slots.set k.toNat sl }

/-! ## The course of a command -/

/-- How a part of a command ends: with a value and a state, with an error and the state it leaves, or with the model
stopping. -/
inductive Res (α : Type) where
  | ok (a : α) (s : State)
  | err (e : CoreError) (s : State)
  | stop (f : Fault)

/-- One part after another: an error or a stop ends the sequence (R16). -/
def Res.bind {α β : Type} (r : Res α) (k : α → State → Res β) : Res β :=
  match r with
  | .ok a s => k a s
  | .err e s => .err e s
  | .stop f => .stop f

/-- The next answer of the entropy source and the state after the request: the environment's list first, then the free
answers (R10; notes/assumptions/3.md). -/
def State.takeAnswer (s : State) : Option Nat × State :=
  match s.entropy with
  | a :: rest => (a, { s with entropy := rest, fills := s.fills + 1 })
  | [] => (Config.entropyAnswer s.fills, { s with fills := s.fills + 1 })

/-- `Fill(n)` in a command that names slot k: n bytes, or `E_ENTROPY(0, k)` (R10, R17). A request that fails is spent
(R216). -/
def fill (k : SlotIx) (n : Nat) (s : State) : Res (BitVec (8 * n)) :=
  match s.takeAnswer with
  | (some v, s') => .ok (BitVec.ofNat (8 * n) v) s'
  | (none, s') => .err (.entropy k) s'

/-- `MemRead` as a part of a command; the model stops at a byte nothing has written (R14, R63). -/
def readBytes (a n : Nat) (s : State) : Res (List Byte) :=
  match memRead s.mem a n with
  | .ok bs => .ok bs s
  | .error e => .stop (.unwrittenRead e)

/-- The first check that fails, in the order listed (R217). -/
def firstFailure : List (Bool × CoreError) → Option CoreError
  | [] => none
  | (fails, e) :: rest => if fails then some e else firstFailure rest

/-- The end of a command: the completion (R218), with the halt of R221, or the model's stop. -/
def finish (op : Byte) (r : Res Unit) : Host.Outcome State Fault Refusal :=
  match r with
  | .ok _ s => .next (s.complete op none)
  | .err e s => .next ((s.complete op (some e)).haltOn e)
  | .stop f => .fault f

/-- A command that ends at once with error e: the taking of an error (R16, R218, R221). -/
def raise (op : Byte) (e : CoreError) (s : State) : Host.Outcome State Fault Refusal :=
  finish op (.err e s)

/-- R222's check, the first of every command. -/
def haltedCheck (s : State) : Bool × CoreError :=
  (s.halted, .isHalted)

/-- R72's check on a slot field. -/
def slotCheck (s : State) (k : SlotIx) : Bool × CoreError :=
  (decide (s.cfg.nSlots ≤ k.toNat), .slotRange k)

/-- A command with opcode byte `op`: refused while HALTED (R222), then its checks in their order (R217), then its body
and its completion (R218). -/
def runCommand (op : Byte) (checks : List (Bool × CoreError)) (body : State → Res Unit) (s : State) :
    Host.Outcome State Fault Refusal :=
  match firstFailure (haltedCheck s :: checks) with
  | some e => raise op e s
  | none => finish op (body s)

end Sys2Proof.Machine
end

