-- ==== Sys2Proof/Machine/Operands.lean ====
section
/-! DEFINITION. The operand checks commands share: the range check of R56 for each memory operand, and the checks on a
named slot of R217 steps 3 and 4. The one addressing mode is absolute (R62). -/

namespace Sys2Proof.Machine

/-- An n-byte operand at a does not lie inside `MEM`; the sum does not wrap and an empty operand always passes (R56). -/
def outsideMem (s : State) (a : Addr) (n : Nat) : Bool :=
  decide (0 < n) && decide (s.cfg.memSize < a.toNat + n)

/-- The range check of the `src` operand (R56). -/
def srcCheck (s : State) (src : Addr) (n : Nat) : Bool × CoreError :=
  (outsideMem s src n, .srcRange)

/-- The range check of the `dst` operand (R56). -/
def dstCheck (s : State) (dst : Addr) (n : Nat) : Bool × CoreError :=
  (outsideMem s dst n, .dstRange)

/-- The range check of the `iv` operand (R56). -/
def ivCheck (s : State) (iv : Addr) (n : Nat) : Bool × CoreError :=
  (outsideMem s iv n, .ivRange)

/-- The slot of field `ks` holds no key instance (R217 step 3). -/
def emptyCheck (s : State) (k : SlotIx) : Bool × CoreError :=
  (decide ((s.slotAt k).alg = .empty), .emptyData k)

/-- The slot belongs to another engine than the command's (R217 step 4). -/
def engineCheck (s : State) (k : SlotIx) (alg : Alg) : Bool × CoreError :=
  (decide ((s.slotAt k).alg ≠ alg), .wrongEngine k)

/-- The slot has no schedule (R217 step 4). -/
def schedCheck (s : State) (k : SlotIx) : Bool × CoreError :=
  (!(s.slotAt k).sched, .unscheduled k)

end Sys2Proof.Machine
end

