-- ==== Sys2Proof/Machine/FieldTables.lean ====
section
/-! DEFINITION. The commands of the field arithmetic and the table generator: GFMUL, TBUILD (R94, R95). -/

namespace Sys2Proof.Machine

/-- GFMUL (R94). -/
def execGfmul (x y : Byte) (dst : Addr) (s : State) : Host.Outcome State Fault Refusal :=
  runCommand 0x01 [dstCheck s dst 1] (fun s => .ok () (s.store dst.toNat [gfMul x y])) s

/-- TBUILD (R95): the tables' contents are constants (R34), so building them sets the bit, and building them again
changes nothing. -/
def execTbuild (s : State) : Host.Outcome State Fault Refusal :=
  runCommand 0x02 [] (fun s => .ok () { s with tablesValid := true }) s

end Sys2Proof.Machine
end

