-- ==== Sys2Proof/Machine/Kuznechik.lean ====
section
/-! DEFINITION. The Kuznechik engine's arithmetic: key schedule, decryption round keys, the two masked pipelines and
round-key re-masking (R131 to R136, R143). -/

namespace Sys2Proof.Machine

/-- The iteration constant `C_i` (R132). -/
def kzConstant (i : Nat) : Block :=
  linear (unitBlock 0 (BitVec.ofNat 8 i))

/-- One iteration of the key schedule on `(a1, a0)` with constant c (R131). -/
def kzIteration (c : Block) (p : Block × Block) : Block × Block :=
  (linear (subBytes (keyAdd p.1 c)) ^^^ p.2, p.1)

/-- The eight iterations of group g, g = 0 to 3 (R131's i is g + 1). -/
def kzGroup (g : Nat) (p : Block × Block) : Block × Block :=
  (List.range 8).foldl (fun q j => kzIteration (kzConstant (8 * g + j + 1)) q) p

/-- The round keys of the next n groups, starting at group g from the pair p. -/
def kzGroupKeys : Nat → Nat → Block × Block → List Block
  | 0, _, _ => []
  | n + 1, g, p =>
    let q := kzGroup g p
    q.1 :: q.2 :: kzGroupKeys n (g + 1) q

/-- `K_1 .. K_10` of a 32-byte key (R131). -/
def kzRoundKeys (key : KeyBytes) : List Block :=
  let k1 := key.extractLsb' 128 128
  let k2 := key.extractLsb' 0 128
  k1 :: k2 :: kzGroupKeys 4 0 (k1, k2)

/-- `DK_1 .. DK_10` from `K_1 .. K_10` (R133). -/
def kzDecKeys : List Block → List Block
  | [] => []
  | k :: ks => k :: ks.map linearInv

/-- The blocks `v_i xor m_i`: masking a round-key array and unmasking it (R134). -/
def xorBlocks (v m : List Block) : List Block :=
  List.zipWith (fun a b => a ^^^ b) v m

/-- The encryption pipeline over the pairs of masked key and mask: a lookup after every pair but the last (R135). -/
def kzEncRounds : List (Block × Block) → Block → Block
  | [], a => a
  | [p], a => keyAdd p.2 (keyAdd p.1 a)
  | p :: q :: rest, a => kzEncRounds (q :: rest) (lookupLS (keyAdd p.2 (keyAdd p.1 a)))

/-- `kz_encrypt` with the arrays `ek` and `em` (R135). -/
def kzEncryptWith (ek em : List Block) (a : Block) : Block :=
  kzEncRounds (ek.zip em) a

/-- The decryption pipeline over the pairs in the order i = 10 down to 1 (R136). -/
def kzDecRounds : List (Block × Block) → Block → Block
  | [], a => a
  | [p], a => keyAdd p.2 (keyAdd p.1 (subBytesInv a))
  | p :: q :: rest, a => kzDecRounds (q :: rest) (keyAdd p.2 (keyAdd p.1 (lookupLSI a)))

/-- `kz_decrypt` with the arrays `dk` and `dm` (R136). -/
def kzDecryptWith (dk dm : List Block) (c : Block) : Block :=
  kzDecRounds (dk.zip dm).reverse (subBytes c)

/-- The classical cipher `X[K_10] L S X[K_9] .. L S X[K_1]` (R135). -/
def kzClassical : List Block → Block → Block
  | [], a => a
  | [k], a => keyAdd k a
  | k :: k' :: rest, a => kzClassical (k' :: rest) (linear (subBytes (keyAdd k a)))

/-- Re-masking of one round-key array v under mask array m with the fresh masks n: the new mask goes on before the old
one comes off (R143). -/
def kzRemaskKeys (v m n : List Block) : List Block :=
  xorBlocks (xorBlocks v n) m

end Sys2Proof.Machine
end

