-- ==== Sys2Proof/Machine/Magma.lean ====
section
/-! DEFINITION. The Magma engine's arithmetic: constants, round-key words, the masked round, the cipher and round-key
re-masking (R160 to R166, R170, R174). -/

namespace Sys2Proof.Machine

/-- The eight 4-bit substitutions `MSBOX[0..7]` (R160). -/
def msboxRows : List (List (BitVec 4)) :=
  [[0xc, 0x4, 0x6, 0x2, 0xa, 0x5, 0xb, 0x9, 0xe, 0x8, 0xd, 0x7, 0x0, 0x3, 0xf, 0x1],
   [0x6, 0x8, 0x2, 0x3, 0x9, 0xa, 0x5, 0xc, 0x1, 0xe, 0x4, 0x7, 0xb, 0xd, 0x0, 0xf],
   [0xb, 0x3, 0x5, 0x8, 0x2, 0xf, 0xa, 0xd, 0xe, 0x1, 0x7, 0x4, 0xc, 0x9, 0x6, 0x0],
   [0xc, 0x8, 0x2, 0x1, 0xd, 0x4, 0xf, 0x6, 0x7, 0x0, 0xa, 0x5, 0x3, 0xe, 0x9, 0xb],
   [0x7, 0xf, 0x5, 0xa, 0x8, 0x1, 0x6, 0xd, 0x0, 0x9, 0x3, 0xe, 0xb, 0x4, 0x2, 0xc],
   [0x5, 0xd, 0xf, 0x6, 0x9, 0x2, 0xc, 0xa, 0xb, 0x7, 0x8, 0x1, 0x4, 0x3, 0xe, 0x0],
   [0x8, 0xe, 0x2, 0x5, 0x6, 0x9, 0x1, 0xc, 0xf, 0x4, 0xb, 0x0, 0xd, 0xa, 0x3, 0x7],
   [0x1, 0x7, 0xe, 0xd, 0x0, 0x5, 0x8, 0x3, 0x4, 0xf, 0xa, 0x6, 0x9, 0xc, 0xb, 0x2]]

/-- `MSBOX[i][v]` (R160). -/
def msbox (i : Nat) (v : BitVec 4) : BitVec 4 :=
  (msboxRows.getD i []).getD v.toNat 0

/-- Nibble i of a word after substitution. -/
def msNibble (a : Word) (i : Nat) : BitVec 4 :=
  msbox i (a.extractLsb' (4 * i) 4)

/-- `t(a)`: `MSBOX[i]` on nibble i (R163). -/
def mgSubst (a : Word) : Word :=
  msNibble a 7 ++ msNibble a 6 ++ msNibble a 5 ++ msNibble a 4 ++
    msNibble a 3 ++ msNibble a 2 ++ msNibble a 1 ++ msNibble a 0

/-- `rol11(a)` (R163). -/
def rol11 (a : Word) : Word :=
  (a <<< 11) ||| (a >>> 21)

/-- `g[k](a)` (R163). -/
def mgG (k a : Word) : Word :=
  rol11 (mgSubst (a + k))

/-- `K_1 .. K_8` of a 32-byte key under the byte-order convention (R161). -/
def mgKeyWords (compat : Bool) (key : KeyBytes) : List Word :=
  (List.range 8).map fun i => if compat then be32At key (4 * i) else le32At key (28 - 4 * i)

/-- The halves (a1, a0) of a block under the byte-order convention (R162). -/
def mgHalves (compat : Bool) (b : HalfBlock) : Word × Word :=
  if compat then (be32At b 0, be32At b 4) else (le32At b 4, le32At b 0)

/-- The block written from (a1, a0) under the byte-order convention (R162). -/
def mgBlock (compat : Bool) (p : Word × Word) : HalfBlock :=
  if compat then rev32 p.2 ++ rev32 p.1 else p.1 ++ p.2

/-- The run of key indices 1 to 8. -/
def orderUp : List Nat := [1, 2, 3, 4, 5, 6, 7, 8]

/-- The run of key indices 8 to 1. -/
def orderDown : List Nat := [8, 7, 6, 5, 4, 3, 2, 1]

/-- `ENC_ORDER` (R164). -/
def encOrder : List Nat := orderUp ++ orderUp ++ orderUp ++ orderDown

/-- `DEC_ORDER` (R164). -/
def decOrder : List Nat := orderUp ++ orderDown ++ orderDown ++ orderDown

/-- Word i of an array numbered from 1 (R30). -/
def wordAt (ws : List Word) (i : Nat) : Word :=
  ws.getD (i - 1) 0

/-- The classical cipher of R164 on (a1, a0): no swap in the last round. -/
def mgClassical (keys : List Word) : List Nat → Word × Word → Word × Word
  | [], p => p
  | [j], (a1, a0) => (mgG (wordAt keys j) a0 ^^^ a1, a0)
  | j :: j' :: rest, (a1, a0) => mgClassical keys (j' :: rest) (a0, mgG (wordAt keys j) a0 ^^^ a1)

/-- The masked arrays a Magma round reads (R30, R166). -/
structure MagmaArrays where
  fk : List Word
  fm : List Word
  ik : List Word
  im : List Word
  deriving DecidableEq, Repr

/-- The masked key addition of one round: bit 0 of the draw selects the forward or the inverted schedule; in both the
mask is used first, then the masked key (R169, R170). -/
def mgMaskedSum (m : MagmaArrays) (j : Nat) (rho a0 : Word) : Word :=
  if rho.getLsbD 0 then (a0 + wordAt m.im j) - wordAt m.ik j
  else (a0 - wordAt m.fm j) + wordAt m.fk j

/-- The rounds of R170 over the pairs of key index and draw: no swap in the last round. -/
def mgRounds (m : MagmaArrays) : List (Nat × Word) → Word × Word → Word × Word
  | [], p => p
  | [q], (a1, a0) => (rol11 (mgSubst (mgMaskedSum m q.1 q.2 a0)) ^^^ a1, a0)
  | q :: q' :: rest, (a1, a0) => mgRounds m (q' :: rest) (a0, rol11 (mgSubst (mgMaskedSum m q.1 q.2 a0)) ^^^ a1)

/-- `mg_crypt` (R170). -/
def mgCryptWith (compat : Bool) (m : MagmaArrays) (ord : List Nat) (rho : List Word) (b : HalfBlock) : HalfBlock :=
  mgBlock compat (mgRounds m (ord.zip rho) (mgHalves compat b))

/-- The words `v_i +32 m_i` (R166). -/
def addWords (v m : List Word) : List Word :=
  List.zipWith (fun a b => a + b) v m

/-- The words `v_i -32 m_i` (R166). -/
def subWords (v m : List Word) : List Word :=
  List.zipWith (fun a b => a - b) v m

/-- The inverted companion key `neg32(K_i)` (R166). -/
def negWords (v : List Word) : List Word :=
  v.map fun a => 0 - a

/-- Re-masking of one round-key array v under mask array m with the fresh masks n: the new mask goes on before the old
one comes off (R174). -/
def mgRemaskKeys (v m n : List Word) : List Word :=
  subWords (addWords v n) m

end Sys2Proof.Machine
end

