-- ==== Sys2Proof/Machine/Container.lean ====
section
/-! DEFINITION. What the masked-key container shares with the engines: masking, the true key, the two integrity codes
and their checks, re-masking, the erasure of round keys, the resource counter (R18, R101 to R103, R107, R137, R145,
R167, R176). -/

namespace Sys2Proof.Machine

/-! ## Masking -/

/-- Word j of a 32-byte string, `LE32(v[4j..4j+4))` (R18). -/
def keyWord (v : KeyBytes) (j : Nat) : Word :=
  v.extractLsb' (32 * j) 32

/-- `mask_on(v, m)`: XOR for a Kuznechik slot, addition of the eight words for a Magma slot (R18). -/
def maskOn (alg : Alg) (v m : KeyBytes) : KeyBytes :=
  match alg with
  | .magma => keyOfWords fun j => keyWord v j + keyWord m j
  | _ => v ^^^ m

/-- `mask_off(r, m)` (R18). -/
def maskOff (alg : Alg) (r m : KeyBytes) : KeyBytes :=
  match alg with
  | .magma => keyOfWords fun j => keyWord r j - keyWord m j
  | _ => r ^^^ m

/-- `true_key(k)` (R18, R25). -/
def Slot.trueKey (sl : Slot) : KeyBytes :=
  maskOff sl.alg sl.raw sl.mask

/-! ## Integrity codes -/

/-- The two running sums of R101 over the 16-bit words of a byte string. -/
def fletcherSums : List Byte → Nat → Nat → Nat × Nat
  | lo :: hi :: rest, s1, s2 =>
    let t1 := (s1 + (lo.toNat + 256 * hi.toNat)) % 65535
    fletcherSums rest t1 ((s2 + t1) % 65535)
  | _, s1, s2 => (s1, s2)

/-- `IC(b)` (R101). -/
def integrityCode (b : List Byte) : Word :=
  let p := fletcherSums b 0 0
  BitVec.ofNat 32 (p.2 * 65536 + p.1)

/-- `IC` of a 32-byte key (R101). -/
def keyCode (key : KeyBytes) : Word :=
  integrityCode (toBytes 32 key)

/-- `IC(K_1 || .. || K_10 || DK_1 || .. || DK_10)` (R137). -/
def kzRoundCode (ks dks : List Block) : Word :=
  integrityCode ((ks ++ dks).flatMap (toBytes 16))

/-- `IC` of the words `K_1 .. K_8` and `neg32(K_1) .. neg32(K_8)` (R167). -/
def mgRoundCode (ks nks : List Word) : Word :=
  integrityCode ((ks ++ nks).flatMap (toBytes 4))

/-- The code of a slot's round keys, over the unmasked values of both its arrays (R137, R167). -/
def Slot.roundCode (sl : Slot) : Word :=
  match sl.alg with
  | .magma => mgRoundCode (subWords sl.fk sl.fm) (subWords sl.ik sl.im)
  | _ => kzRoundCode (xorBlocks sl.ek sl.em) (xorBlocks sl.dk sl.dm)

/-- `check_key(k)` as an ordered list of checks (R102). -/
def keyChecks (s : State) (k : SlotIx) : List (Bool × CoreError) :=
  let sl := s.slotAt k
  [(!sl.icodeSet, .noIcode k), (decide (keyCode sl.trueKey ≠ sl.icode), .keyMismatch k)]

/-- `check_rk(k)` (R137, R167). -/
def roundKeyCheck (s : State) (k : SlotIx) : Bool × CoreError :=
  let sl := s.slotAt k
  (decide (sl.roundCode ≠ sl.rkicode), .roundKeyMismatch k)

/-! ## Re-masking -/

/-- The key of a slot under the fresh mask m: the new mask goes on before the old one comes off (R107 steps 3, 4). -/
def Slot.remaskKey (sl : Slot) (m : KeyBytes) : Slot :=
  { sl with
    raw := if sl.masked then maskOff sl.alg (maskOn sl.alg sl.raw m) sl.mask else maskOn sl.alg sl.raw m
    mask := m
    masked := true }

/-- `kz_rk_remask(k, d1, d2)` (R143). -/
def Slot.remaskKz (sl : Slot) (d1 d2 : BitVec 1280) : Slot :=
  { sl with
    ek := kzRemaskKeys sl.ek sl.em (drawBlocks d1)
    em := drawBlocks d1
    dk := kzRemaskKeys sl.dk sl.dm (drawBlocks d2)
    dm := drawBlocks d2 }

/-- `mg_rk_remask(k, d1, d2)` (R174). -/
def Slot.remaskMg (sl : Slot) (d1 d2 : KeyBytes) : Slot :=
  { sl with
    fk := mgRemaskKeys sl.fk sl.fm (drawWords d1)
    fm := drawWords d1
    ik := mgRemaskKeys sl.ik sl.im (drawWords d2)
    im := drawWords d2 }

/-- `remask(k)`, all draws before the first write; a failed draw reports slot `who`, which is k except at the exit of
XTS, where it is the field `ks` (R107, R203, R212). -/
def remask (who k : SlotIx) (s : State) : Res Unit :=
  (fill who 32 s).bind fun (m : KeyBytes) s =>
    if (s.slotAt k).sched then
      match (s.slotAt k).alg with
      | .magma =>
        (fill who 32 s).bind fun (d1 : KeyBytes) s =>
          (fill who 32 s).bind fun (d2 : KeyBytes) s =>
            .ok () (s.setSlot k (((s.slotAt k).remaskKey m).remaskMg d1 d2))
      | _ =>
        (fill who 160 s).bind fun (d1 : BitVec 1280) s =>
          (fill who 160 s).bind fun (d2 : BitVec 1280) s =>
            .ok () (s.setSlot k (((s.slotAt k).remaskKey m).remaskKz d1 d2))
    else .ok () (s.setSlot k ((s.slotAt k).remaskKey m))

/-! ## Erasure and the resource counter -/

/-- The Kuznechik round-key arrays overwritten by four draws (R145). -/
def Slot.overwriteKz (sl : Slot) (d1 d2 d3 d4 : BitVec 1280) : Slot :=
  { sl with ek := drawBlocks d1, em := drawBlocks d2, dk := drawBlocks d3, dm := drawBlocks d4 }

/-- The Magma round-key arrays overwritten by four draws (R176). -/
def Slot.overwriteMg (sl : Slot) (d1 d2 d3 d4 : KeyBytes) : Slot :=
  { sl with fk := drawWords d1, fm := drawWords d2, ik := drawWords d3, im := drawWords d4 }

/-- The slot after n block operations under its key (R103). -/
def Slot.spend (sl : Slot) (n : Nat) : Slot :=
  { sl with res := sl.res - BitVec.ofNat 64 n }

/-- Fewer than n block operations are left (R103). -/
def resourceShort (s : State) (k : SlotIx) (n : Nat) : Bool :=
  decide ((s.slotAt k).res.toNat < n)

end Sys2Proof.Machine
end

