-- ==== Sys2Proof/Machine/MaskedKey.lean ====
section
/-! DEFINITION. The commands of the masked secret-key container: KCREATE, KLOAD, KSETMASK, KUNMASK, KSETICODE, KCHKICODE,
KDESTROY (R104 to R111). -/

namespace Sys2Proof.Machine

/-- The default resource limit of an algorithm (R28, R104). -/
def initialResource (s : State) (alg : Alg) : BitVec 64 :=
  match alg with
  | .magma => s.cfg.magmaResource
  | _ => s.cfg.kuzResource

/-- The slot KCREATE makes from the draw m: the zero key under mask m; the round-key arrays stay as they were (R104). -/
def Slot.created (sl : Slot) (alg : Alg) (m : KeyBytes) (res : BitVec 64) : Slot :=
  { sl with
    alg := alg
    mask := m
    raw := m
    masked := true
    icodeSet := false
    sched := false
    icode := 0
    rkicode := 0
    res := res }

/-- KCREATE (R104). -/
def execKcreate (ks : SlotIx) (alg : Byte) (s : State) : Host.Outcome State Fault Refusal :=
  runCommand 0x10
    [slotCheck s ks, (decide ((s.slotAt ks).alg ≠ .empty), .occupied ks),
      (decide (algOfByte alg = none), .badAlgorithm ks)]
    (fun s =>
      let a := (algOfByte alg).getD .empty
      (fill ks 32 s).bind fun (m : KeyBytes) s =>
        .ok () (s.setSlot ks ((s.slotAt ks).created a m (initialResource s a))))
    s

/-- The slot KLOAD leaves for the key value v: masked as it is written (R105). -/
def Slot.loaded (sl : Slot) (v : KeyBytes) : Slot :=
  { sl with raw := maskOn sl.alg v sl.mask, icode := keyCode v, icodeSet := true }

/-- KLOAD (R105). -/
def execKload (ks : SlotIx) (src : Addr) (s : State) : Host.Outcome State Fault Refusal :=
  runCommand 0x11
    [slotCheck s ks, emptyCheck s ks, ((s.slotAt ks).icodeSet, .alreadyLoaded ks), srcCheck s src 32]
    (fun s =>
      (readBytes src.toNat 32 s).bind fun b s =>
        .ok () (s.setSlot ks ((s.slotAt ks).loaded (ofBytes 256 b))))
    s

/-- KSETMASK (R106). -/
def execKsetmask (ks : SlotIx) (s : State) : Host.Outcome State Fault Refusal :=
  runCommand 0x12 [slotCheck s ks, emptyCheck s ks] (remask ks ks) s

/-- The slot with its mask removed; nothing changes if none is applied (R108). -/
def Slot.unmasked (sl : Slot) : Slot :=
  if sl.masked then { sl with raw := maskOff sl.alg sl.raw sl.mask, mask := 0, masked := false } else sl

/-- KUNMASK (R108). -/
def execKunmask (ks : SlotIx) (s : State) : Host.Outcome State Fault Refusal :=
  runCommand 0x13 [slotCheck s ks, emptyCheck s ks] (fun s => .ok () (s.setSlot ks (s.slotAt ks).unmasked)) s

/-- The slot with the integrity code of its true key set (R109). -/
def Slot.certified (sl : Slot) : Slot :=
  { sl with icode := keyCode sl.trueKey, icodeSet := true }

/-- KSETICODE (R109). -/
def execKseticode (ks : SlotIx) (s : State) : Host.Outcome State Fault Refusal :=
  runCommand 0x14 [slotCheck s ks, emptyCheck s ks] (fun s => .ok () (s.setSlot ks (s.slotAt ks).certified)) s

/-- KCHKICODE (R110). -/
def execKchkicode (ks : SlotIx) (s : State) : Host.Outcome State Fault Refusal :=
  runCommand 0x15 ([slotCheck s ks, emptyCheck s ks] ++ keyChecks s ks) (fun s => .ok () s) s

/-- The slot after KDESTROY, its round-key arrays aside: raw and mask overwritten by the draws a and b, everything else
cleared (R111). -/
def Slot.destroyed (sl : Slot) (a b : KeyBytes) : Slot :=
  { sl with
    alg := .empty
    raw := a
    mask := b
    masked := false
    icodeSet := false
    sched := false
    icode := 0
    rkicode := 0
    res := 0 }

/-- KDESTROY (R111): six draws, made whether or not the slot is scheduled, then the overwriting. -/
def execKdestroy (ks : SlotIx) (s : State) : Host.Outcome State Fault Refusal :=
  runCommand 0x16 [slotCheck s ks, emptyCheck s ks]
    (fun s =>
      (fill ks 32 s).bind fun (a : KeyBytes) s =>
        (fill ks 32 s).bind fun (b : KeyBytes) s =>
          match (s.slotAt ks).alg with
          | .magma =>
            (fill ks 32 s).bind fun (d1 : KeyBytes) s =>
              (fill ks 32 s).bind fun (d2 : KeyBytes) s =>
                (fill ks 32 s).bind fun (d3 : KeyBytes) s =>
                  (fill ks 32 s).bind fun (d4 : KeyBytes) s =>
                    .ok () (s.setSlot ks (((s.slotAt ks).overwriteMg d1 d2 d3 d4).destroyed a b))
          | _ =>
            (fill ks 160 s).bind fun (d1 : BitVec 1280) s =>
              (fill ks 160 s).bind fun (d2 : BitVec 1280) s =>
                (fill ks 160 s).bind fun (d3 : BitVec 1280) s =>
                  (fill ks 160 s).bind fun (d4 : BitVec 1280) s =>
                    .ok () (s.setSlot ks (((s.slotAt ks).overwriteKz d1 d2 d3 d4).destroyed a b)))
    s

end Sys2Proof.Machine
end

