-- ==== Sys2Proof/Machine/KuznechikCommands.lean ====
section
/-! DEFINITION. The commands of the Kuznechik engine: KZ.SCHED, KZ.ENC, KZ.DEC, KZ.REMASK, KZ.DELKEYS (R138 to R145). -/

namespace Sys2Proof.Machine

/-- `kz_encrypt(k, a)` under a slot (R135). -/
def Slot.kzEncrypt (sl : Slot) (a : Block) : Block :=
  kzEncryptWith sl.ek sl.em a

/-- `kz_decrypt(k, c)` under a slot (R136). -/
def Slot.kzDecrypt (sl : Slot) (c : Block) : Block :=
  kzDecryptWith sl.dk sl.dm c

/-- The schedule of a slot's true key, masked by the draws d1 and d2 (R138). -/
def Slot.kzScheduled (sl : Slot) (d1 d2 : BitVec 1280) : Slot :=
  let ks := kzRoundKeys sl.trueKey
  let dks := kzDecKeys ks
  { sl with
    em := drawBlocks d1
    ek := xorBlocks ks (drawBlocks d1)
    dm := drawBlocks d2
    dk := xorBlocks dks (drawBlocks d2)
    rkicode := kzRoundCode ks dks
    sched := true }

/-- KZ.SCHED (R138). -/
def execKzSched (ks : SlotIx) (s : State) : Host.Outcome State Fault Refusal :=
  runCommand 0x20 ([slotCheck s ks, emptyCheck s ks, engineCheck s ks .kuz] ++ keyChecks s ks)
    (fun s =>
      (fill ks 160 s).bind fun (d1 : BitVec 1280) s =>
        (fill ks 160 s).bind fun (d2 : BitVec 1280) s =>
          .ok () (s.setSlot ks ((s.slotAt ks).kzScheduled d1 d2)))
    s

/-- The checks of KZ.ENC and KZ.DEC (R139). -/
def kzBlockChecks (ks : SlotIx) (src dst : Addr) (s : State) : List (Bool × CoreError) :=
  [slotCheck s ks, emptyCheck s ks, engineCheck s ks .kuz, schedCheck s ks, srcCheck s src 16, dstCheck s dst 16,
    (!s.tablesValid, .noTables)] ++ keyChecks s ks ++
    [roundKeyCheck s ks, (resourceShort s ks 1, .dataResource ks)]

/-- One Kuznechik block command: the block is read whole, its image under f written, one unit of resource spent
(R141, R142). -/
def kzBlockBody (f : Slot → Block → Block) (ks : SlotIx) (src dst : Addr) (s : State) : Res Unit :=
  (readBytes src.toNat 16 s).bind fun b s =>
    .ok () ((s.store dst.toNat (toBytes 16 (f (s.slotAt ks) (ofBytes 128 b)))).setSlot ks ((s.slotAt ks).spend 1))

/-- KZ.ENC (R141). -/
def execKzEnc (ks : SlotIx) (src dst : Addr) (s : State) : Host.Outcome State Fault Refusal :=
  runCommand 0x21 (kzBlockChecks ks src dst s) (kzBlockBody Slot.kzEncrypt ks src dst) s

/-- KZ.DEC (R142). -/
def execKzDec (ks : SlotIx) (src dst : Addr) (s : State) : Host.Outcome State Fault Refusal :=
  runCommand 0x22 (kzBlockChecks ks src dst s) (kzBlockBody Slot.kzDecrypt ks src dst) s

/-- KZ.REMASK (R144). -/
def execKzRemask (ks : SlotIx) (s : State) : Host.Outcome State Fault Refusal :=
  runCommand 0x23 [slotCheck s ks, emptyCheck s ks, engineCheck s ks .kuz, schedCheck s ks] (remask ks ks) s

/-- A slot whose schedule has been deleted, its arrays aside (R145, R176). -/
def Slot.unscheduled (sl : Slot) : Slot :=
  { sl with rkicode := 0, sched := false }

/-- KZ.DELKEYS (R145). -/
def execKzDelkeys (ks : SlotIx) (s : State) : Host.Outcome State Fault Refusal :=
  runCommand 0x24 [slotCheck s ks, emptyCheck s ks, engineCheck s ks .kuz]
    (fun s =>
      (fill ks 160 s).bind fun (d1 : BitVec 1280) s =>
        (fill ks 160 s).bind fun (d2 : BitVec 1280) s =>
          (fill ks 160 s).bind fun (d3 : BitVec 1280) s =>
            (fill ks 160 s).bind fun (d4 : BitVec 1280) s =>
              .ok () (s.setSlot ks ((s.slotAt ks).overwriteKz d1 d2 d3 d4).unscheduled))
    s

end Sys2Proof.Machine
end

