-- ==== Sys2Proof/Machine/MagmaCommands.lean ====
section
/-! DEFINITION. The commands of the Magma engine: MG.SCHED, MG.ENC, MG.DEC, MG.REMASK, MG.DELKEYS (R168 to R176). -/

namespace Sys2Proof.Machine

/-- The arrays of a slot a Magma round reads (R30). -/
def Slot.magmaArrays (sl : Slot) : MagmaArrays :=
  ⟨sl.fk, sl.fm, sl.ik, sl.im⟩

/-- The schedule of a slot's true key under the configured convention, masked by the draws d1 and d2 (R168). -/
def Slot.mgScheduled (sl : Slot) (compat : Bool) (d1 d2 : KeyBytes) : Slot :=
  let ks := mgKeyWords compat sl.trueKey
  let nks := negWords ks
  { sl with
    fm := drawWords d1
    fk := addWords ks (drawWords d1)
    im := drawWords d2
    ik := addWords nks (drawWords d2)
    rkicode := mgRoundCode ks nks
    sched := true }

/-- MG.SCHED (R168). -/
def execMgSched (ks : SlotIx) (s : State) : Host.Outcome State Fault Refusal :=
  runCommand 0x30 ([slotCheck s ks, emptyCheck s ks, engineCheck s ks .magma] ++ keyChecks s ks)
    (fun s =>
      (fill ks 32 s).bind fun (d1 : KeyBytes) s =>
        (fill ks 32 s).bind fun (d2 : KeyBytes) s =>
          .ok () (s.setSlot ks ((s.slotAt ks).mgScheduled s.cfg.compat d1 d2)))
    s

/-- n draws `rho <- LE32(Fill(4))`, in order (R169). -/
def fillWords (who : SlotIx) : Nat → State → Res (List Word)
  | 0, s => .ok [] s
  | n + 1, s =>
    (fill who 4 s).bind fun (r : Word) s =>
      (fillWords who n s).bind fun rs s => .ok (r :: rs) s

/-- The checks of MG.ENC and MG.DEC up to the draws (R171). -/
def mgBlockChecks (ks : SlotIx) (src dst : Addr) (s : State) : List (Bool × CoreError) :=
  [slotCheck s ks, emptyCheck s ks, engineCheck s ks .magma, schedCheck s ks, srcCheck s src 8, dstCheck s dst 8] ++
    keyChecks s ks ++ [roundKeyCheck s ks, (resourceShort s ks 1, .dataResource ks)]

/-- One Magma block command with an order of round keys: the 32 draws, the block read whole, its image written, one unit
of resource spent (R169, R172, R173). -/
def mgBlockBody (ord : List Nat) (ks : SlotIx) (src dst : Addr) (s : State) : Res Unit :=
  (fillWords ks 32 s).bind fun rho s =>
    (readBytes src.toNat 8 s).bind fun b s =>
      let out := mgCryptWith s.cfg.compat (s.slotAt ks).magmaArrays ord rho (ofBytes 64 b)
      .ok () ((s.store dst.toNat (toBytes 8 out)).setSlot ks ((s.slotAt ks).spend 1))

/-- MG.ENC (R172). -/
def execMgEnc (ks : SlotIx) (src dst : Addr) (s : State) : Host.Outcome State Fault Refusal :=
  runCommand 0x31 (mgBlockChecks ks src dst s) (mgBlockBody encOrder ks src dst) s

/-- MG.DEC (R173). -/
def execMgDec (ks : SlotIx) (src dst : Addr) (s : State) : Host.Outcome State Fault Refusal :=
  runCommand 0x32 (mgBlockChecks ks src dst s) (mgBlockBody decOrder ks src dst) s

/-- MG.REMASK (R175). -/
def execMgRemask (ks : SlotIx) (s : State) : Host.Outcome State Fault Refusal :=
  runCommand 0x33 [slotCheck s ks, emptyCheck s ks, engineCheck s ks .magma, schedCheck s ks] (remask ks ks) s

/-- MG.DELKEYS (R176). -/
def execMgDelkeys (ks : SlotIx) (s : State) : Host.Outcome State Fault Refusal :=
  runCommand 0x34 [slotCheck s ks, emptyCheck s ks, engineCheck s ks .magma]
    (fun s =>
      (fill ks 32 s).bind fun (d1 : KeyBytes) s =>
        (fill ks 32 s).bind fun (d2 : KeyBytes) s =>
          (fill ks 32 s).bind fun (d3 : KeyBytes) s =>
            (fill ks 32 s).bind fun (d4 : KeyBytes) s =>
              .ok () (s.setSlot ks ((s.slotAt ks).overwriteMg d1 d2 d3 d4).unscheduled))
    s

end Sys2Proof.Machine
end

