-- ==== Sys2Proof/Machine/Xts.lean ====
section
/-! DEFINITION. The XTS tweak chain: XTS.ENC, XTS.DEC (R190 to R203). -/

namespace Sys2Proof.Machine

/-- The direction of a raw block operation. -/
inductive Direction where
  | encrypt
  | decrypt
  deriving DecidableEq, Repr

/-- The block size of an engine in bytes (R190). -/
def blockSize (alg : Alg) : Nat :=
  match alg with
  | .magma => 8
  | _ => 16

/-- The Magma key order of a direction (R164). -/
def mgOrder (dir : Direction) : List Nat :=
  match dir with
  | .encrypt => encOrder
  | .decrypt => decOrder

/-- `E(k, x)` and `D(k, x)`: one raw block operation under slot k, on the low bytes of x, with 32 fresh draws just before
it if the slot is MAGMA; a failed draw reports slot `who` (R191, R198, R203). -/
def rawBlock (dir : Direction) (who k : SlotIx) (x : Block) (s : State) : Res Block :=
  match (s.slotAt k).alg with
  | .magma =>
    (fillWords who 32 s).bind fun rho s =>
      .ok ((mgCryptWith s.cfg.compat (s.slotAt k).magmaArrays (mgOrder dir) rho (x.setWidth 64)).setWidth 128) s
  | _ =>
    match dir with
    | .encrypt => .ok ((s.slotAt k).kzEncrypt x) s
    | .decrypt => .ok ((s.slotAt k).kzDecrypt x) s

/-- The number of block operations under the tweak key, `nt` (R193). -/
def tweakBlocks (alg : Alg) : Nat :=
  match alg with
  | .magma => 2
  | _ => 1

/-- The initial tweak from the extended initial vector: one encryption for a 16-byte engine, two chained ones for an
8-byte engine (R193). -/
def initialTweak (who kt : SlotIx) (t : Block) (s : State) : Res Block :=
  match (s.slotAt kt).alg with
  | .magma =>
    (rawBlock .encrypt who kt (t &&& 0xFFFFFFFFFFFFFFFF) s).bind fun lo s =>
      (rawBlock .encrypt who kt ((t >>> 64) ^^^ lo) s).bind fun hi s =>
        .ok ((hi <<< 64) ||| lo) s
  | _ => rawBlock .encrypt who kt t s

/-- `dbl(T)` (R194). -/
def doubleTweak (t : Block) : Block :=
  if t.getLsbD 127 then (t <<< 1) ^^^ 0x87 else t <<< 1

/-- `tw(n)` for a data engine of block size bd, as a block whose bytes above bd are zero (R195). -/
def blockTweak (bd n : Nat) (t : Block) : Block :=
  if bd = 8 then (if n % 2 = 0 then t &&& 0xFFFFFFFFFFFFFFFF else t >>> 64) else t

/-- T after data block n (R195). -/
def advanceTweak (bd n : Nat) (t : Block) : Block :=
  if bd = 8 then (if n % 2 = 0 then t else doubleTweak t) else doubleTweak t

/-- The data blocks n, n + 1, .. of an XTS command, m of them, in increasing order, each read before it is written
(R196, R200 step 3). -/
def xtsBlocks (dir : Direction) (ks : SlotIx) (src dst bd : Nat) : Nat → Nat → Block → State → Res Unit
  | 0, _, _, s => .ok () s
  | m + 1, n, t, s =>
    (readBytes (src + bd * n) bd s).bind fun p s =>
      (rawBlock dir ks ks (ofBytes 128 p ^^^ blockTweak bd n t) s).bind fun c s =>
        xtsBlocks dir ks src dst bd m (n + 1) (advanceTweak bd n t)
          (s.store (dst + bd * n) (toBytes bd (c ^^^ blockTweak bd n t)))

/-- The operands of an XTS command (R190). -/
structure XtsOperands where
  ks : SlotIx
  kt : SlotIx
  src : Addr
  dst : Addr
  len : Word
  iv : Addr
  ivlen : Byte
  deriving DecidableEq, Repr

/-- `bd` (R190). -/
def xtsBlockSize (o : XtsOperands) (s : State) : Nat :=
  blockSize (s.slotAt o.ks).alg

/-- `nb = len / bd` (R197). -/
def xtsDataBlocks (o : XtsOperands) (s : State) : Nat :=
  o.len.toNat / xtsBlockSize o s

/-- `nt` (R193). -/
def xtsTweakBlocks (o : XtsOperands) (s : State) : Nat :=
  tweakBlocks (s.slotAt o.kt).alg

/-- The sixteen checks of R197, after the refusal while HALTED. -/
def xtsChecks (o : XtsOperands) (s : State) : List (Bool × CoreError) :=
  [slotCheck s o.ks, slotCheck s o.kt,
    emptyCheck s o.ks, (decide ((s.slotAt o.kt).alg = .empty), .emptyTweak o.kt),
    schedCheck s o.ks, schedCheck s o.kt,
    (decide (o.ks = o.kt), .sameSlot o.ks),
    (decide (o.len.toNat % xtsBlockSize o s ≠ 0), .lenNotMultiple),
    (decide (o.ivlen = 0) || decide (16 < o.ivlen.toNat), .ivLength),
    srcCheck s o.src o.len.toNat, dstCheck s o.dst o.len.toNat, ivCheck s o.iv o.ivlen.toNat,
    ((decide ((s.slotAt o.ks).alg = .kuz) || decide ((s.slotAt o.kt).alg = .kuz)) && !s.tablesValid, .noTables)] ++
    keyChecks s o.ks ++ [roundKeyCheck s o.ks] ++ keyChecks s o.kt ++ [roundKeyCheck s o.kt] ++
    [(resourceShort s o.ks (xtsDataBlocks o s), .dataResource o.ks),
      (resourceShort s o.kt (xtsTweakBlocks o s), .tweakResource o.kt)]

/-- Steps 1 to 4 of R200: the tweak from the initial vector, the data blocks, the counters. -/
def xtsProcess (dir : Direction) (o : XtsOperands) (s : State) : Res Unit :=
  (readBytes o.iv.toNat o.ivlen.toNat s).bind fun b s =>
    (initialTweak o.ks o.kt (ofBytes 128 b) s).bind fun t s =>
      (xtsBlocks dir o.ks o.src.toNat o.dst.toNat (xtsBlockSize o s) (xtsDataBlocks o s) 0 t s).bind fun _ s =>
        let s1 := s.setSlot o.ks ((s.slotAt o.ks).spend (xtsDataBlocks o s))
        .ok () (s1.setSlot o.kt ((s1.slotAt o.kt).spend (xtsTweakBlocks o s)))

/-- A part of the command that is performed whatever came before it: the first error is kept (R202). -/
def attemptAfter (first : Option CoreError) (r : Res Unit) (k : Option CoreError → State → Res Unit) : Res Unit :=
  match r with
  | .ok _ s => k first s
  | .err e s => k (first.or (some e)) s
  | .stop f => .stop f

/-- The command's end with the first error that occurred, or none (R202). -/
def reportFirst (first : Option CoreError) (s : State) : Res Unit :=
  match first with
  | none => .ok () s
  | some e => .err e s

/-- The exit re-masking: `remask(ks)` then `remask(kt)`, each attempted whatever happened before (R202). -/
def exitRemask (o : XtsOperands) (first : Option CoreError) (s : State) : Res Unit :=
  attemptAfter first (remask o.ks o.ks s) fun e s =>
    attemptAfter e (remask o.ks o.kt s) reportFirst

/-- The body of an XTS command: steps 1 to 4, then the exit re-masking, win or lose; after a failed draw inside steps 2
or 3 the bytes at `dst` are unspecified (R200, R202, R203). -/
def xtsBody (dir : Direction) (o : XtsOperands) (s : State) : Res Unit :=
  match xtsProcess dir o s with
  | .ok _ s' => exitRemask o none s'
  | .err e s' => exitRemask o (some e) (s'.scramble o.dst.toNat o.len.toNat)
  | .stop f => .stop f

/-- XTS.ENC (R200). -/
def execXtsEnc (ks kt : SlotIx) (src dst : Addr) (len : Word) (iv : Addr) (ivlen : Byte) (s : State) :
    Host.Outcome State Fault Refusal :=
  runCommand 0x40 (xtsChecks ⟨ks, kt, src, dst, len, iv, ivlen⟩ s) (xtsBody .encrypt ⟨ks, kt, src, dst, len, iv, ivlen⟩) s

/-- XTS.DEC (R201). -/
def execXtsDec (ks kt : SlotIx) (src dst : Addr) (len : Word) (iv : Addr) (ivlen : Byte) (s : State) :
    Host.Outcome State Fault Refusal :=
  runCommand 0x41 (xtsChecks ⟨ks, kt, src, dst, len, iv, ivlen⟩ s) (xtsBody .decrypt ⟨ks, kt, src, dst, len, iv, ivlen⟩) s

end Sys2Proof.Machine
end

