-- ==== Sys2Proof/Machine/Dispatch.lean ====
section
/-! DEFINITION. The meaning of every command, one arm per constructor of Instr (R69). -/

namespace Sys2Proof.Machine

def exec (i : Instr) (s : State) : Host.Outcome State Fault Refusal :=
  match i with
  | .gfmul x y dst => Sys2Proof.Machine.execGfmul x y dst s
  | .tbuild => Sys2Proof.Machine.execTbuild s
  | .kcreate ks alg => Sys2Proof.Machine.execKcreate ks alg s
  | .kload ks src => Sys2Proof.Machine.execKload ks src s
  | .ksetmask ks => Sys2Proof.Machine.execKsetmask ks s
  | .kunmask ks => Sys2Proof.Machine.execKunmask ks s
  | .kseticode ks => Sys2Proof.Machine.execKseticode ks s
  | .kchkicode ks => Sys2Proof.Machine.execKchkicode ks s
  | .kdestroy ks => Sys2Proof.Machine.execKdestroy ks s
  | .kzSched ks => Sys2Proof.Machine.execKzSched ks s
  | .kzEnc ks src dst => Sys2Proof.Machine.execKzEnc ks src dst s
  | .kzDec ks src dst => Sys2Proof.Machine.execKzDec ks src dst s
  | .kzRemask ks => Sys2Proof.Machine.execKzRemask ks s
  | .kzDelkeys ks => Sys2Proof.Machine.execKzDelkeys ks s
  | .mgSched ks => Sys2Proof.Machine.execMgSched ks s
  | .mgEnc ks src dst => Sys2Proof.Machine.execMgEnc ks src dst s
  | .mgDec ks src dst => Sys2Proof.Machine.execMgDec ks src dst s
  | .mgRemask ks => Sys2Proof.Machine.execMgRemask ks s
  | .mgDelkeys ks => Sys2Proof.Machine.execMgDelkeys ks s
  | .xtsEnc ks kt src dst len iv ivlen => Sys2Proof.Machine.execXtsEnc ks kt src dst len iv ivlen s
  | .xtsDec ks kt src dst len iv ivlen => Sys2Proof.Machine.execXtsDec ks kt src dst len iv ivlen s

end Sys2Proof.Machine
end

