-- ==== Sys2Proof/WellFormed.lean ====
section
/-! DEFINITION. What makes a command well formed: its slot indices are below `N_SLOTS` (R72). Every other value its
fields can hold is a legal encoding (R68, R73). -/

namespace Sys2Proof

/-- R72's condition on one slot field. -/
def slotBelow (nSlots : Nat) (k : SlotIx) : Bool :=
  decide (k.toNat < nSlots)

/-- The command's slot fields are legal on a core of `nSlots` slots (R68, R72). -/
def Instr.wellFormed (nSlots : Nat) : Instr → Bool
  | .gfmul _ _ _ => true
  | .tbuild => true
  | .kcreate ks _ => slotBelow nSlots ks
  | .kload ks _ => slotBelow nSlots ks
  | .ksetmask ks => slotBelow nSlots ks
  | .kunmask ks => slotBelow nSlots ks
  | .kseticode ks => slotBelow nSlots ks
  | .kchkicode ks => slotBelow nSlots ks
  | .kdestroy ks => slotBelow nSlots ks
  | .kzSched ks => slotBelow nSlots ks
  | .kzEnc ks _ _ => slotBelow nSlots ks
  | .kzDec ks _ _ => slotBelow nSlots ks
  | .kzRemask ks => slotBelow nSlots ks
  | .kzDelkeys ks => slotBelow nSlots ks
  | .mgSched ks => slotBelow nSlots ks
  | .mgEnc ks _ _ => slotBelow nSlots ks
  | .mgDec ks _ _ => slotBelow nSlots ks
  | .mgRemask ks => slotBelow nSlots ks
  | .mgDelkeys ks => slotBelow nSlots ks
  | .xtsEnc ks kt _ _ _ _ _ => slotBelow nSlots ks && slotBelow nSlots kt
  | .xtsDec ks kt _ _ _ _ _ => slotBelow nSlots ks && slotBelow nSlots kt

end Sys2Proof
end

