-- ==== Sys2Proof/Decode.lean ====
section
/-! DEFINITION. The descriptor's layout (R65, R66), the decoder (R69 to R73), total and rejecting by name, the match
and mask table (R75), and the encoder. -/

namespace Sys2Proof

/-- The nine fields of a descriptor, in the order of R66. -/
structure Fields where
  op : Byte
  ks : SlotIx
  kt : SlotIx
  a : Byte
  b : Byte
  src : Addr
  dst : Addr
  len : Word
  iv : Addr
  deriving DecidableEq, Repr

/-- The fields at their bit positions in D (R66). -/
def fieldsOf (d : Descriptor) : Fields where
  op := d.extractLsb' 152 8
  ks := d.extractLsb' 148 4
  kt := d.extractLsb' 144 4
  a := d.extractLsb' 136 8
  b := d.extractLsb' 128 8
  src := d.extractLsb' 96 32
  dst := d.extractLsb' 64 32
  len := d.extractLsb' 32 32
  iv := d.extractLsb' 0 32

/-- The descriptor with the given fields, W0 most significant (R65, R66). -/
def packFields (f : Fields) : Descriptor :=
  f.op ++ f.ks ++ f.kt ++ f.a ++ f.b ++ f.src ++ f.dst ++ f.len ++ f.iv

/-- The formats of R67. -/
inductive Format where
  | n | g | c | l | k | b | x
  deriving DecidableEq, Repr

/-- R71: every field the format does not use is zero. -/
def unusedZero (fmt : Format) (f : Fields) : Bool :=
  match fmt with
  | .n => f.ks == 0 && f.kt == 0 && f.a == 0 && f.b == 0 && f.src == 0 && f.dst == 0 && f.len == 0 && f.iv == 0
  | .g => f.ks == 0 && f.kt == 0 && f.src == 0 && f.len == 0 && f.iv == 0
  | .c => f.kt == 0 && f.a == 0 && f.src == 0 && f.dst == 0 && f.len == 0 && f.iv == 0
  | .l => f.kt == 0 && f.a == 0 && f.b == 0 && f.dst == 0 && f.len == 0 && f.iv == 0
  | .k => f.kt == 0 && f.a == 0 && f.b == 0 && f.src == 0 && f.dst == 0 && f.len == 0 && f.iv == 0
  | .b => f.kt == 0 && f.a == 0 && f.b == 0 && f.len == 0 && f.iv == 0
  | .x => f.b == 0

/-- One row of the opcode map: the format and the command its fields make. -/
structure OpcodeRow where
  format : Format
  build : Fields → Instr

/-- The opcode map of R69; `none` is R70's illegal opcode. -/
def opcodeRow (op : Byte) : Option OpcodeRow :=
  match op.toNat with
  | 0x01 => some ⟨.g, fun f => .gfmul f.a f.b f.dst⟩
  | 0x02 => some ⟨.n, fun _ => .tbuild⟩
  | 0x10 => some ⟨.c, fun f => .kcreate f.ks f.b⟩
  | 0x11 => some ⟨.l, fun f => .kload f.ks f.src⟩
  | 0x12 => some ⟨.k, fun f => .ksetmask f.ks⟩
  | 0x13 => some ⟨.k, fun f => .kunmask f.ks⟩
  | 0x14 => some ⟨.k, fun f => .kseticode f.ks⟩
  | 0x15 => some ⟨.k, fun f => .kchkicode f.ks⟩
  | 0x16 => some ⟨.k, fun f => .kdestroy f.ks⟩
  | 0x20 => some ⟨.k, fun f => .kzSched f.ks⟩
  | 0x21 => some ⟨.b, fun f => .kzEnc f.ks f.src f.dst⟩
  | 0x22 => some ⟨.b, fun f => .kzDec f.ks f.src f.dst⟩
  | 0x23 => some ⟨.k, fun f => .kzRemask f.ks⟩
  | 0x24 => some ⟨.k, fun f => .kzDelkeys f.ks⟩
  | 0x30 => some ⟨.k, fun f => .mgSched f.ks⟩
  | 0x31 => some ⟨.b, fun f => .mgEnc f.ks f.src f.dst⟩
  | 0x32 => some ⟨.b, fun f => .mgDec f.ks f.src f.dst⟩
  | 0x33 => some ⟨.k, fun f => .mgRemask f.ks⟩
  | 0x34 => some ⟨.k, fun f => .mgDelkeys f.ks⟩
  | 0x40 => some ⟨.x, fun f => .xtsEnc f.ks f.kt f.src f.dst f.len f.iv f.a⟩
  | 0x41 => some ⟨.x, fun f => .xtsDec f.ks f.kt f.src f.dst f.len f.iv f.a⟩
  | _ => none

/-- Why a descriptor is illegal; each is `E_ILLEGAL` with the sub-cause of R70, R71, R72. -/
inductive Illegal where
  /-- R70: `op` is not an opcode. -/
  | opcode
  /-- R71: a must-be-zero field is not zero. -/
  | mustBeZero
  /-- R72: the slot field holds `k`, which is not below `N_SLOTS`. -/
  | slotRange (k : SlotIx)
  deriving DecidableEq, Repr

/-- R70, then R71, on the fields. -/
def decodeFields (f : Fields) : Except Illegal Instr :=
  match opcodeRow f.op with
  | none => .error .opcode
  | some r => if unusedZero r.format f then .ok (r.build f) else .error .mustBeZero

/-- The decoder up to R71: the descriptor's command, whatever `N_SLOTS` is (R70, R71, R75). -/
def decode (d : Descriptor) : Except Illegal Instr :=
  decodeFields (fieldsOf d)

/-- The slot fields a command uses, in the order R72 checks them. -/
def slotFields : Instr → List SlotIx
  | .gfmul _ _ _ => []
  | .tbuild => []
  | .kcreate ks _ => [ks]
  | .kload ks _ => [ks]
  | .ksetmask ks => [ks]
  | .kunmask ks => [ks]
  | .kseticode ks => [ks]
  | .kchkicode ks => [ks]
  | .kdestroy ks => [ks]
  | .kzSched ks => [ks]
  | .kzEnc ks _ _ => [ks]
  | .kzDec ks _ _ => [ks]
  | .kzRemask ks => [ks]
  | .kzDelkeys ks => [ks]
  | .mgSched ks => [ks]
  | .mgEnc ks _ _ => [ks]
  | .mgDec ks _ _ => [ks]
  | .mgRemask ks => [ks]
  | .mgDelkeys ks => [ks]
  | .xtsEnc ks kt _ _ _ _ _ => [ks, kt]
  | .xtsDec ks kt _ _ _ _ _ => [ks, kt]

/-- The decoder of R73 on a core of `nSlots` slots: R70, R71, R72 in that order, the first that fails. -/
def decodeIssued (nSlots : Nat) (d : Descriptor) : Except Illegal Instr :=
  match decode d with
  | .error e => .error e
  | .ok i =>
    match (slotFields i).find? (fun k => !decide (k.toNat < nSlots)) with
    | some k => .error (.slotRange k)
    | none => .ok i

/-- The command in the descriptor whose 160-bit number is `w`: `nbits` is the row's width, 160 for every row, and the
bits above it are zero. -/
def decodeTableWord (nbits w : Nat) : Option Instr :=
  match decode (BitVec.ofNat 160 (w % 2 ^ nbits)) with
  | .ok i => some i
  | .error _ => none

/-! The encoder: the descriptor of a command, from R66, R67 and R69. -/

/-- The opcode of a command (R69). -/
def opcodeOf : Instr → Byte
  | .gfmul _ _ _ => 0x01
  | .tbuild => 0x02
  | .kcreate _ _ => 0x10
  | .kload _ _ => 0x11
  | .ksetmask _ => 0x12
  | .kunmask _ => 0x13
  | .kseticode _ => 0x14
  | .kchkicode _ => 0x15
  | .kdestroy _ => 0x16
  | .kzSched _ => 0x20
  | .kzEnc _ _ _ => 0x21
  | .kzDec _ _ _ => 0x22
  | .kzRemask _ => 0x23
  | .kzDelkeys _ => 0x24
  | .mgSched _ => 0x30
  | .mgEnc _ _ _ => 0x31
  | .mgDec _ _ _ => 0x32
  | .mgRemask _ => 0x33
  | .mgDelkeys _ => 0x34
  | .xtsEnc _ _ _ _ _ _ _ => 0x40
  | .xtsDec _ _ _ _ _ _ _ => 0x41

/-- A descriptor's fields with the opcode given and every operand field zero (R71). -/
def bareFields (op : Byte) : Fields :=
  ⟨op, 0, 0, 0, 0, 0, 0, 0, 0⟩

/-- The operand fields of a command by its format (R67), every unused field zero (R71). -/
def operandFields (i : Instr) : Fields :=
  let z := bareFields (opcodeOf i)
  match i with
  | .gfmul x y dst => { z with a := x, b := y, dst := dst }
  | .tbuild => z
  | .kcreate ks alg => { z with ks := ks, b := alg }
  | .kload ks src => { z with ks := ks, src := src }
  | .ksetmask ks => { z with ks := ks }
  | .kunmask ks => { z with ks := ks }
  | .kseticode ks => { z with ks := ks }
  | .kchkicode ks => { z with ks := ks }
  | .kdestroy ks => { z with ks := ks }
  | .kzSched ks => { z with ks := ks }
  | .kzEnc ks src dst => { z with ks := ks, src := src, dst := dst }
  | .kzDec ks src dst => { z with ks := ks, src := src, dst := dst }
  | .kzRemask ks => { z with ks := ks }
  | .kzDelkeys ks => { z with ks := ks }
  | .mgSched ks => { z with ks := ks }
  | .mgEnc ks src dst => { z with ks := ks, src := src, dst := dst }
  | .mgDec ks src dst => { z with ks := ks, src := src, dst := dst }
  | .mgRemask ks => { z with ks := ks }
  | .mgDelkeys ks => { z with ks := ks }
  | .xtsEnc ks kt src dst len iv ivlen =>
    { z with ks := ks, kt := kt, a := ivlen, src := src, dst := dst, len := len, iv := iv }
  | .xtsDec ks kt src dst len iv ivlen =>
    { z with ks := ks, kt := kt, a := ivlen, src := src, dst := dst, len := len, iv := iv }

/-- The descriptor of a command. -/
def encode (i : Instr) : Descriptor :=
  packFields (operandFields i)

/-- The five words W0 to W4 of a descriptor (R65). -/
def descriptorWords (d : Descriptor) : List Word :=
  [d.extractLsb' 128 32, d.extractLsb' 96 32, d.extractLsb' 64 32, d.extractLsb' 32 32, d.extractLsb' 0 32]

/-- The `mask` of a format, W0 first (R75). -/
def formatMask : Format → Descriptor
  | .n => 0xFFFFFFFFFFFFFFFFFFFFFFFFFFFFFFFFFFFFFFFF
  | .g => 0xFFFF0000FFFFFFFF00000000FFFFFFFFFFFFFFFF
  | .c => 0xFF0FFF00FFFFFFFFFFFFFFFFFFFFFFFFFFFFFFFF
  | .l => 0xFF0FFFFF00000000FFFFFFFFFFFFFFFFFFFFFFFF
  | .k => 0xFF0FFFFFFFFFFFFFFFFFFFFFFFFFFFFFFFFFFFFF
  | .b => 0xFF0FFFFF0000000000000000FFFFFFFFFFFFFFFF
  | .x => 0xFF0000FF00000000000000000000000000000000

/-- The `match` value of an opcode's row: the opcode, then zeros (R75). -/
def rowPattern (op : Byte) : Descriptor :=
  packFields (bareFields op)

end Sys2Proof
end

