-- ==== Sys2Proof/Machine/HostPort.lean ====
section
/-! DEFINITION. The command port and the host's other moves: what a presented descriptor does before a command runs
(R65, R73, R222), and `HostWrite`, `HostRead`, `HostStatus` and the reset input (R64, R240, R243). -/

namespace Sys2Proof.Machine

/-- The opcode byte of a descriptor as issued, `D[159:152]` (R218). -/
def issuedOp (d : Descriptor) : Byte :=
  d.extractLsb' 152 8

/-- The error an illegal descriptor raises (R70 to R72). -/
def illegalError : Illegal → CoreError
  | .opcode => .badOpcode
  | .mustBeZero => .mustBeZero
  | .slotRange k => .slotRange k

/-- What the port makes of a descriptor: a command to run, or the error that ends it here. While HALTED nothing is
decoded (R73, R222). -/
def presented (s : State) (d : Descriptor) : Except CoreError Instr :=
  if s.halted then .error .isHalted
  else
    match decodeIssued s.cfg.nSlots d with
    | .error e => .error (illegalError e)
    | .ok i => .ok i

/-- An operand of the host lies inside `MEM` (R64). -/
def insideMem (s : State) (a : Addr) (n : Nat) : Bool :=
  decide (a.toNat + n ≤ s.cfg.memSize)

/-- `HostWrite(addr, b)` (R64). -/
def hostWrite (a : Addr) (bs : List Byte) (s : State) : Host.Outcome State Fault Refusal :=
  if insideMem s a bs.length then .next (s.store a.toNat bs) else .refused .hostOutsideMemory

/-- `HostRead(addr, n)` (R64). -/
def hostRead (a : Addr) (n : Nat) (s : State) : Host.Outcome State Fault Refusal :=
  if insideMem s a n then
    match memRead s.mem a.toNat n with
    | .ok bs => .next { s with reply := .bytes bs }
    | .error e => .fault (.unwrittenRead e)
  else .refused .hostOutsideMemory

/-- `HostStatus(off)` (R64). -/
def hostStatus (off : Addr) (s : State) : Host.Outcome State Fault Refusal :=
  .next { s with reply := .word (s.statusAt off.toNat) }

/-- The reset input with the option store's values: the core is as R44 says, what is outside it stays (R240, R243); a
configuration that breaks R7 is refused (R8). `COMPAT` and the two resource limits are sampled here (R8).
DESIGN CHOICE, unsafe: so are `N_SLOTS` and `MEM_SIZE`, which may change at a reset like the other three; R8 and R23, R243
leave open whether they can (notes/assumptions/24.md). -/
def platformReset (cfg : Config) (s : State) : Host.Outcome State Fault Refusal :=
  if cfg.valid then
    .next
      { State.resetWith cfg with
        port := s.port
        entropy := s.entropy
        fills := s.fills
        freeBytes := s.freeBytes }
  else .refused .badConfiguration

/-- The host's next action and the state in which it is being performed; `none` while the core only waits (R22). -/
def State.takeAction (s : State) : Option (HostAction × State) :=
  match s.port with
  | [] => none
  | a :: rest => some (a, { s with port := rest })

end Sys2Proof.Machine
end

