-- ==== Sys2Proof/Machine/Step.lean ====
section
/-! DEFINITION. One step of the machine: the next action of the host, performed to its end (R6, R22, R59), and where the
next command is placed. -/

namespace Sys2Proof.Machine

/-- One action of the host on the core: a command is one step however long it takes (R55, R252). -/
def perform (a : HostAction) (s : State) : Host.Outcome State Fault Refusal :=
  match a with
  | .command d =>
    match presented s d with
    | .error e => raise (issuedOp d) e s
    | .ok i => exec i s
  | .write addr bytes => hostWrite addr bytes s
  | .read addr n => hostRead addr n s
  | .status off => hostStatus off s
  | .reset cfg => platformReset cfg s

/-- One step: with no action presented the core waits and nothing changes (R22, R44). -/
def step (s : State) : Host.Outcome State Fault Refusal :=
  match s.takeAction with
  | none => .next s
  | some (a, s') => perform a s'

/-- The state in which the descriptor whose number is `w` is what the host presents next, everything else as in `s`
(R65; notes/assumptions/5.md). -/
def State.withFetchWord (s : State) (nbits w : Nat) : State :=
  { s with port := .command (BitVec.ofNat 160 (w % 2 ^ nbits)) :: s.port }

end Sys2Proof.Machine
end

