-- ==== Sys2Proof/Safety.lean ====
section
/-! DEFINITION. The terms the statements use: the invariants of R32 and of the whole state, the global order of checks
(R217, R228), the draws a command makes, what a completion leaves, the tweak sequence, and what the host can tell apart. -/

namespace Sys2Proof.Machine

/-! ## Invariants -/

/-- The invariants of a slot, R32 items 1 to 6, with the shapes of the arrays (R29, R30). -/
structure Slot.Inv (compat : Bool) (sl : Slot) : Prop where
  /-- R32 item 1. -/
  empty_clear : sl.alg = .empty →
    sl.masked = false ∧ sl.icodeSet = false ∧ sl.sched = false ∧ sl.res = 0 ∧ sl.icode = 0 ∧ sl.rkicode = 0
  /-- R32 item 2. -/
  unmasked_zero : sl.masked = false → sl.alg ≠ .empty → sl.mask = 0
  /-- R32 item 3. -/
  code_matches : sl.icodeSet = true → sl.icode = keyCode sl.trueKey
  /-- R32 item 4. -/
  kuz_schedule : sl.sched = true → sl.alg = .kuz →
    xorBlocks sl.ek sl.em = kzRoundKeys sl.trueKey ∧
      xorBlocks sl.dk sl.dm = kzDecKeys (kzRoundKeys sl.trueKey) ∧
      sl.rkicode = kzRoundCode (kzRoundKeys sl.trueKey) (kzDecKeys (kzRoundKeys sl.trueKey))
  /-- R32 item 5. -/
  magma_schedule : sl.sched = true → sl.alg = .magma →
    subWords sl.fk sl.fm = mgKeyWords compat sl.trueKey ∧
      subWords sl.ik sl.im = negWords (mgKeyWords compat sl.trueKey) ∧
      sl.rkicode = mgRoundCode (mgKeyWords compat sl.trueKey) (negWords (mgKeyWords compat sl.trueKey))
  /-- R32 item 6. -/
  sched_certified : sl.sched = true → sl.icodeSet = true
  /-- R29: ten blocks in each array. -/
  kuz_sizes : sl.ek.length = 10 ∧ sl.em.length = 10 ∧ sl.dk.length = 10 ∧ sl.dm.length = 10
  /-- R30: eight words in each array. -/
  magma_sizes : sl.fk.length = 8 ∧ sl.fm.length = 8 ∧ sl.ik.length = 8 ∧ sl.im.length = 8
  /-- R7, R28: the counter starts below 2^63 and never rises. -/
  res_bounded : sl.res.toNat < 2 ^ 63

/-- The invariant of the machine: a legal configuration, `N_SLOTS` slots each with its invariants, `MEM` in canonical
form and inside `MEM_SIZE`, and status registers that hold only what R36 to R39 let them hold. -/
structure State.Inv (s : State) : Prop where
  /-- R7, R8. -/
  config_valid : s.cfg.valid = true
  /-- R20. -/
  slot_count : s.slots.length = s.cfg.nSlots
  /-- R32. -/
  slots_inv : ∀ sl ∈ s.slots, sl.Inv s.cfg.compat
  /-- The canonical form of the memory. -/
  mem_wf : s.mem.wf = true
  /-- R42: every byte lies in `MEM`. -/
  mem_inside : ∀ c ∈ s.mem, c.1 < s.cfg.memSize
  /-- R211: the codes are 0 to 8. -/
  code_range : s.code.toNat ≤ 8
  /-- R38: only bits 1 to 8 of `FAULTS` are ever set. -/
  faults_bits : s.faults &&& 0xFFFFFE01 = 0
  /-- R38: the code of the last command is recorded. -/
  code_recorded : s.code ≠ 0 → s.faults.getLsbD s.code.toNat = true
  /-- R39, R221: the halt came from `E_NOTABLES`. -/
  halt_recorded : s.halted = true → s.faults.getLsbD 8 = true

/-! ## What a completion leaves -/

/-- The state after a completion with the given code, sub-cause and slot: the status registers written, nothing else
(R218). -/
def State.endedWith (s : State) (op : Byte) (code sub : Nat) (slot : SlotIx) : State :=
  { s with
    code := BitVec.ofNat 8 code
    errSub := BitVec.ofNat 8 sub
    errOp := op
    errSlot := slot
    faults := if code = 0 then s.faults else s.faults ||| (1#32 <<< code) }

/-- The state after a successful completion (R218). -/
def State.ended (s : State) (op : Byte) : State :=
  s.endedWith op 0 0 0

/-- Everything but the status registers, HALTED and the entropy source's position is the same. -/
def SameButStatus (s t : State) : Prop :=
  t = { s with
    code := t.code, errSub := t.errSub, errOp := t.errOp, errSlot := t.errSlot, faults := t.faults, halted := t.halted,
    entropy := t.entropy, fills := t.fills }

/-! ## The global order of checks -/

/-- The opcodes of R69, each with its row's mask (R75). -/
def opcodeMasks : List (Byte × Descriptor) :=
  [(0x01, 0xFFFF0000FFFFFFFF00000000FFFFFFFFFFFFFFFF), (0x02, 0xFFFFFFFFFFFFFFFFFFFFFFFFFFFFFFFFFFFFFFFF),
   (0x10, 0xFF0FFF00FFFFFFFFFFFFFFFFFFFFFFFFFFFFFFFF), (0x11, 0xFF0FFFFF00000000FFFFFFFFFFFFFFFFFFFFFFFF),
   (0x12, 0xFF0FFFFFFFFFFFFFFFFFFFFFFFFFFFFFFFFFFFFF), (0x13, 0xFF0FFFFFFFFFFFFFFFFFFFFFFFFFFFFFFFFFFFFF),
   (0x14, 0xFF0FFFFFFFFFFFFFFFFFFFFFFFFFFFFFFFFFFFFF), (0x15, 0xFF0FFFFFFFFFFFFFFFFFFFFFFFFFFFFFFFFFFFFF),
   (0x16, 0xFF0FFFFFFFFFFFFFFFFFFFFFFFFFFFFFFFFFFFFF), (0x20, 0xFF0FFFFFFFFFFFFFFFFFFFFFFFFFFFFFFFFFFFFF),
   (0x21, 0xFF0FFFFF0000000000000000FFFFFFFFFFFFFFFF), (0x22, 0xFF0FFFFF0000000000000000FFFFFFFFFFFFFFFF),
   (0x23, 0xFF0FFFFFFFFFFFFFFFFFFFFFFFFFFFFFFFFFFFFF), (0x24, 0xFF0FFFFFFFFFFFFFFFFFFFFFFFFFFFFFFFFFFFFF),
   (0x30, 0xFF0FFFFFFFFFFFFFFFFFFFFFFFFFFFFFFFFFFFFF), (0x31, 0xFF0FFFFF0000000000000000FFFFFFFFFFFFFFFF),
   (0x32, 0xFF0FFFFF0000000000000000FFFFFFFFFFFFFFFF), (0x33, 0xFF0FFFFFFFFFFFFFFFFFFFFFFFFFFFFFFFFFFFFF),
   (0x34, 0xFF0FFFFFFFFFFFFFFFFFFFFFFFFFFFFFFFFFFFFF), (0x40, 0xFF0000FF00000000000000000000000000000000),
   (0x41, 0xFF0000FF00000000000000000000000000000000)]

/-- The command needs a key in the slots it names: all that name one, but for KCREATE. -/
def needsKey : Instr → Bool
  | .kcreate _ _ => false
  | _ => true

/-- R217 step 3: the slots that must hold a key, `ks` (sub 0) before `kt` (sub 1). -/
def emptyStep (s : State) (i : Instr) : List (Bool × CoreError) :=
  if needsKey i then
    match slotFields i with
    | [] => []
    | ks :: kts =>
      ((s.slotAt ks).alg == .empty, .emptyData ks) :: kts.map fun kt => ((s.slotAt kt).alg == .empty, .emptyTweak kt)
  else []

/-- The engine a command belongs to, if it belongs to one (R69). -/
def engineOf : Instr → Option Alg
  | .kzSched _ | .kzEnc _ _ _ | .kzDec _ _ _ | .kzRemask _ | .kzDelkeys _ => some .kuz
  | .mgSched _ | .mgEnc _ _ _ | .mgDec _ _ _ | .mgRemask _ | .mgDelkeys _ => some .magma
  | _ => none

/-- The command needs a schedule: ENC, DEC and REMASK of either engine, and XTS (R228's `E_CONFIG` sub 3). -/
def needsSchedule : Instr → Bool
  | .kzEnc _ _ _ | .kzDec _ _ _ | .kzRemask _ | .mgEnc _ _ _ | .mgDec _ _ _ | .mgRemask _ => true
  | .xtsEnc _ _ _ _ _ _ _ | .xtsDec _ _ _ _ _ _ _ => true
  | _ => false

/-- R217 step 4: sub-causes in increasing number, `ks` before `kt`. -/
def configStep (s : State) (i : Instr) : List (Bool × CoreError) :=
  (slotFields i).filterMap (fun k => (engineOf i).map fun a => ((s.slotAt k).alg != a, .wrongEngine k)) ++
  (match i with
    | .kcreate ks _ => [((s.slotAt ks).alg != .empty, .occupied ks)]
    | .kload ks _ => [((s.slotAt ks).icodeSet, .alreadyLoaded ks)]
    | _ => []) ++
  (if needsSchedule i then (slotFields i).map fun k => (!(s.slotAt k).sched, .unscheduled k) else []) ++
  (match i with
    | .xtsEnc ks kt _ _ _ _ _ | .xtsDec ks kt _ _ _ _ _ => [(ks == kt, .sameSlot ks)]
    | .kcreate ks alg => [(alg != 1 && alg != 2, .badAlgorithm ks)]
    | _ => [])

/-- The block size of a slot's engine in bytes (R9). -/
def sizeOfSlotBlock (s : State) (k : SlotIx) : Nat :=
  if (s.slotAt k).alg = .magma then 8 else 16

/-- An operand of n bytes, n at least 1, does not lie inside `MEM` (R56). -/
def beyond (s : State) (a : Addr) (n : Nat) : Bool :=
  n != 0 && decide (s.cfg.memSize < a.toNat + n)

/-- R217 step 5: sub-causes in increasing number. -/
def lengthStep (s : State) : Instr → List (Bool × CoreError)
  | .gfmul _ _ dst => [(beyond s dst 1, .dstRange)]
  | .kload _ src => [(beyond s src 32, .srcRange)]
  | .kzEnc _ src dst | .kzDec _ src dst => [(beyond s src 16, .srcRange), (beyond s dst 16, .dstRange)]
  | .mgEnc _ src dst | .mgDec _ src dst => [(beyond s src 8, .srcRange), (beyond s dst 8, .dstRange)]
  | .xtsEnc ks _ src dst len iv ivlen | .xtsDec ks _ src dst len iv ivlen =>
    [(len.toNat % sizeOfSlotBlock s ks != 0, .lenNotMultiple), (ivlen == 0 || decide (16 < ivlen.toNat), .ivLength),
      (beyond s src len.toNat, .srcRange), (beyond s dst len.toNat, .dstRange), (beyond s iv ivlen.toNat, .ivRange)]
  | _ => []

/-- R217 step 6: a Kuznechik pipeline is needed and the tables are not built. -/
def tablesStep (s : State) : Instr → List (Bool × CoreError)
  | .kzEnc _ _ _ | .kzDec _ _ _ => [(!s.tablesValid, .noTables)]
  | .xtsEnc ks kt _ _ _ _ _ | .xtsDec ks kt _ _ _ _ _ =>
    [(((s.slotAt ks).alg == .kuz || (s.slotAt kt).alg == .kuz) && !s.tablesValid, .noTables)]
  | _ => []

/-- The key's part of R217 step 7: sub 2, then sub 0. -/
def keyStep (s : State) (k : SlotIx) : List (Bool × CoreError) :=
  [(!(s.slotAt k).icodeSet, .noIcode k), (keyCode (s.slotAt k).trueKey != (s.slotAt k).icode, .keyMismatch k)]

/-- R217 step 7: for `ks` sub 2, sub 0 and, if round keys are used, sub 1; then the same for `kt`. -/
def integrityStep (s : State) : Instr → List (Bool × CoreError)
  | .kchkicode ks | .kzSched ks | .mgSched ks => keyStep s ks
  | .kzEnc ks _ _ | .kzDec ks _ _ | .mgEnc ks _ _ | .mgDec ks _ _ =>
    keyStep s ks ++ [((s.slotAt ks).roundCode != (s.slotAt ks).rkicode, .roundKeyMismatch ks)]
  | .xtsEnc ks kt _ _ _ _ _ | .xtsDec ks kt _ _ _ _ _ =>
    keyStep s ks ++ [((s.slotAt ks).roundCode != (s.slotAt ks).rkicode, .roundKeyMismatch ks)] ++
      keyStep s kt ++ [((s.slotAt kt).roundCode != (s.slotAt kt).rkicode, .roundKeyMismatch kt)]
  | _ => []

/-- The block operations under the tweak key (R193). -/
def tweakCost (s : State) (kt : SlotIx) : Nat :=
  if (s.slotAt kt).alg = .magma then 2 else 1

/-- R217 step 8: `ks`, then `kt`. -/
def resourceStep (s : State) : Instr → List (Bool × CoreError)
  | .kzEnc ks _ _ | .kzDec ks _ _ | .mgEnc ks _ _ | .mgDec ks _ _ => [((s.slotAt ks).res == 0, .dataResource ks)]
  | .xtsEnc ks kt _ _ len _ _ | .xtsDec ks kt _ _ len _ _ =>
    [(decide ((s.slotAt ks).res.toNat < len.toNat / sizeOfSlotBlock s ks), .dataResource ks),
      (decide ((s.slotAt kt).res.toNat < tweakCost s kt), .tweakResource kt)]
  | _ => []

/-- The refusal of a command by steps 1 to 8 of R217, the same order for all 21 commands; `none` if all pass. -/
def refusalOf (i : Instr) (s : State) : Option CoreError :=
  firstFailure
    ([(s.halted, .isHalted)] ++ (slotFields i).map (fun k => (!slotBelow s.cfg.nSlots k, .slotRange k)) ++
      emptyStep s i ++ configStep s i ++ lengthStep s i ++ tablesStep s i ++ integrityStep s i ++ resourceStep s i)

/-! ## Draws -/

/-- The j-th answer the entropy source will give from here, j = 0 first (R10). -/
def answerAt (s : State) (j : Nat) : Option Nat :=
  match s.entropy[j]? with
  | some a => a
  | none => Config.entropyAnswer (s.fills + j)

/-- The bytes of the j-th answer, as a string of n bytes. -/
def drawn (s : State) (j n : Nat) : BitVec (8 * n) :=
  BitVec.ofNat (8 * n) ((answerAt s j).getD 0)

/-- The next n requests all succeed. -/
def answersOk (s : State) (n : Nat) : Prop :=
  ∀ j < n, (answerAt s j).isSome = true

/-- The state after n requests to the entropy source. -/
def afterAnswers (s : State) (n : Nat) : State :=
  { s with entropy := s.entropy.drop n, fills := s.fills + n }

/-- The requests of re-masking slot k, in order (R107). -/
def remaskDraws (s : State) (k : SlotIx) : List Nat :=
  let sl := s.slotAt k
  if sl.sched then (if sl.alg = .magma then [32, 32, 32] else [32, 160, 160]) else [32]

/-- The requests of a command other than XTS that passes its checks, in order (the "Draws" line of each command rule). -/
def drawsOf (i : Instr) (s : State) : List Nat :=
  match i with
  | .kcreate _ _ => [32]
  | .ksetmask ks | .kzRemask ks | .mgRemask ks => remaskDraws s ks
  | .kdestroy ks => if (s.slotAt ks).alg = .magma then List.replicate 6 32 else [32, 32, 160, 160, 160, 160]
  | .kzSched _ => [160, 160]
  | .kzDelkeys _ => [160, 160, 160, 160]
  | .mgSched _ => [32, 32]
  | .mgEnc _ _ _ | .mgDec _ _ _ => List.replicate 32 4
  | .mgDelkeys _ => [32, 32, 32, 32]
  | _ => []

/-- The slot field a command names first, 0 if it has none (R212's rule for `E_ENTROPY`). -/
def reportedSlot (i : Instr) : SlotIx :=
  (slotFields i).headD 0

/-- The command is XTS.ENC or XTS.DEC. -/
def isXts : Instr → Bool
  | .xtsEnc _ _ _ _ _ _ _ | .xtsDec _ _ _ _ _ _ _ => true
  | _ => false

/-- How many requests an XTS command makes before its exit re-masking (R198 parts 1 and 2). -/
def xtsBlockDraws (o : XtsOperands) (s : State) : Nat :=
  (if (s.slotAt o.kt).alg = .magma then 64 else 0) +
    (if (s.slotAt o.ks).alg = .magma then 32 * (o.len.toNat / 8) else 0)

/-! ## Memory -/

/-- Address a lies in the n bytes from b. -/
def within (a b n : Nat) : Prop :=
  b ≤ a ∧ a < b + n

/-- Every byte of the n bytes at a has been written (R244 item 3). -/
def readable (s : State) (a n : Nat) : Prop :=
  ∀ j < n, (memByte s.mem (a + j)).isSome = true

/-- The n bytes at a, unwritten ones read as 0 (used only where all are written). -/
def bytesAt (s : State) (a n : Nat) : List Byte :=
  (List.range n).map fun j => (memByte s.mem (a + j)).getD 0

/-! ## The exit re-masking of XTS -/

/-- The three requests of re-masking a scheduled slot, the first of them the j-th from here, all succeed (R107). -/
def remaskAnswered (s : State) (j : Nat) : Bool :=
  (answerAt s j).isSome && (answerAt s (j + 1)).isSome && (answerAt s (j + 2)).isSome

/-- How many requests that re-masking makes: none after the first that fails (R17). -/
def remaskRequests (s : State) (j : Nat) : Nat :=
  if (answerAt s j).isNone then 1 else if (answerAt s (j + 1)).isNone then 2 else 3

/-- A scheduled slot whose true key and unmasked round keys stand under the masks of the answers j, j + 1 and j + 2,
everything else as it was (R107, R143, R174). -/
def freshlyMasked (s : State) (j : Nat) (sl : Slot) : Slot :=
  let sl' := { sl with raw := maskOn sl.alg sl.trueKey (drawn s j 32), mask := drawn s j 32, masked := true }
  if sl.alg = .magma then
    let m1 := drawWords (drawn s (j + 1) 32)
    let m2 := drawWords (drawn s (j + 2) 32)
    { sl' with fk := addWords (subWords sl.fk sl.fm) m1, fm := m1, ik := addWords (subWords sl.ik sl.im) m2, im := m2 }
  else
    let m1 := drawBlocks (drawn s (j + 1) 160)
    let m2 := drawBlocks (drawn s (j + 2) 160)
    { sl' with ek := xorBlocks (xorBlocks sl.ek sl.em) m1, em := m1, dk := xorBlocks (xorBlocks sl.dk sl.dm) m2, dm := m2 }

/-- The slot after a re-masking that begins with the j-th request: under fresh masks, or, if one of its requests fails,
as it was (R107, R202). -/
def afterRemask (s : State) (j : Nat) (sl : Slot) : Slot :=
  if remaskAnswered s j then freshlyMasked s j sl else sl

/-- The request with which the re-masking of the tweak slot begins, when that of the data slot begins with the j-th:
whether or not that one succeeds (R202). -/
def tweakRemaskAt (s : State) (j : Nat) : Nat :=
  j + remaskRequests s j

/-- The request after the exit re-masking that begins with the j-th. -/
def exitRemaskEnd (s : State) (j : Nat) : Nat :=
  tweakRemaskAt s j + remaskRequests s (tweakRemaskAt s j)

/-- What an XTS command leaves that ended with `E_ENTROPY` from state s, its exit re-masking beginning with the j-th
request: the report, both slots re-masked as far as their requests were answered, their counters aside, and nothing else
changed but the bytes at `dst` (R202, R203, R220). -/
structure XtsFailed (op : Byte) (o : XtsOperands) (s t : State) (j : Nat) : Prop where
  /-- R203, R212: the slot reported is the field `ks`, whichever slot was being re-masked (notes/assumptions/21.md). -/
  report : t.code = 6 ∧ t.errSub = 0 ∧ t.errOp = op ∧ t.errSlot = o.ks ∧ t.faults = s.faults ||| 1#32 <<< 6
  /-- R202: `remask(ks)`. -/
  data_slot : t.slotAt o.ks = { afterRemask s j (s.slotAt o.ks) with res := (t.slotAt o.ks).res }
  /-- R202: `remask(kt)`, performed also when `remask(ks)` failed. -/
  tweak_slot : t.slotAt o.kt = { afterRemask s (tweakRemaskAt s j) (s.slotAt o.kt) with res := (t.slotAt o.kt).res }
  /-- R203: nothing of any other slot. -/
  other_slots : ∀ k, k ≠ o.ks → k ≠ o.kt → t.slotAt k = s.slotAt k
  /-- R203: the true keys, the codes and the flags but MASKED are as before. -/
  keys_kept : ∀ k, (t.slotAt k).trueKey = (s.slotAt k).trueKey ∧ (t.slotAt k).alg = (s.slotAt k).alg ∧
    (t.slotAt k).icodeSet = (s.slotAt k).icodeSet ∧ (t.slotAt k).sched = (s.slotAt k).sched ∧
    (t.slotAt k).icode = (s.slotAt k).icode ∧ (t.slotAt k).rkicode = (s.slotAt k).rkicode
  /-- R203: the unmasked round keys are as before. -/
  round_keys_kept : ∀ k,
    ((s.slotAt k).alg = .kuz → xorBlocks (t.slotAt k).ek (t.slotAt k).em = xorBlocks (s.slotAt k).ek (s.slotAt k).em ∧
      xorBlocks (t.slotAt k).dk (t.slotAt k).dm = xorBlocks (s.slotAt k).dk (s.slotAt k).dm) ∧
    ((s.slotAt k).alg = .magma → subWords (t.slotAt k).fk (t.slotAt k).fm = subWords (s.slotAt k).fk (s.slotAt k).fm ∧
      subWords (t.slotAt k).ik (t.slotAt k).im = subWords (s.slotAt k).ik (s.slotAt k).im)
  /-- R203: `MEM` outside `dst` is as before. -/
  outside_kept : ∀ a, ¬ within a o.dst.toNat o.len.toNat → memByte t.mem a = memByte s.mem a
  /-- The requests made are spent (R216), and nothing else of the state changes. -/
  rest_kept : t = { s with
    slots := t.slots, mem := t.mem, freeBytes := t.freeBytes, code := t.code, errSub := t.errSub, errOp := t.errOp,
    errSlot := t.errSlot, faults := t.faults,
    entropy := s.entropy.drop (exitRemaskEnd s j), fills := s.fills + exitRemaskEnd s j }
  /-- The invariants hold. -/
  inv : t.Inv

/-! ## The cipher of a slot, and the XTS chain -/

/-- Encryption under the true key of a slot by the classical cipher of its engine, on the low bytes of x (R135, R164). -/
def classicalEncrypt (compat : Bool) (sl : Slot) (x : Block) : Block :=
  if sl.alg = .magma then
    (mgBlock compat (mgClassical (mgKeyWords compat sl.trueKey) encOrder (mgHalves compat (x.setWidth 64)))).setWidth 128
  else kzClassical (kzRoundKeys sl.trueKey) x

/-- The initial tweak under the classical cipher of the tweak key (R192, R193). -/
def classicalTweak (compat : Bool) (sl : Slot) (iv : Block) : Block :=
  if sl.alg = .magma then
    let lo := classicalEncrypt compat sl (iv.extractLsb' 0 64 |>.setWidth 128)
    let hi := classicalEncrypt compat sl ((iv.extractLsb' 64 64 ^^^ lo.setWidth 64).setWidth 128)
    hi.setWidth 64 ++ lo.setWidth 64
  else classicalEncrypt compat sl iv

/-- T before data block n: doubled after every block of a 16-byte engine, after every second block of an 8-byte one
(R195). -/
def tweakState (bd : Nat) (t : Block) : Nat → Block
  | 0 => t
  | n + 1 => if bd = 16 ∨ n % 2 = 1 then doubleTweak (tweakState bd t n) else tweakState bd t n

/-- `tw(n)` (R195). -/
def tweakOfBlock (bd : Nat) (t : Block) (n : Nat) : Block :=
  if bd = 16 then tweakState bd t n
  else if n % 2 = 0 then ((tweakState bd t n).extractLsb' 0 64).setWidth 128
  else ((tweakState bd t n).extractLsb' 64 64).setWidth 128

/-! ## What the host can tell apart -/

/-- Two slots the host and every command take for the same: the same algorithm, flags, counter and codes and, in a slot
that holds a key, the same true key. Masks, masked values and the arrays may differ (R33, R112). -/
def SlotAlike (sl sl' : Slot) : Prop :=
  sl'.alg = sl.alg ∧ sl'.masked = sl.masked ∧ sl'.icodeSet = sl.icodeSet ∧ sl'.sched = sl.sched ∧
    sl'.icode = sl.icode ∧ sl'.res = sl.res ∧ (sl.alg ≠ .empty → sl'.trueKey = sl.trueKey)

/-- Two states that differ only in masks, in values stored under masks, and in the bytes the entropy source will give:
which of its answers are failures is the same. -/
structure Alike (s s' : State) : Prop where
  rest : s' = { s with slots := s'.slots, entropy := s'.entropy, fills := s'.fills }
  slots : ∀ k, SlotAlike (s.slotAt k) (s'.slotAt k)
  answers : ∀ j, (answerAt s' j).isSome = (answerAt s j).isSome

end Sys2Proof.Machine
end

