-- ==== Sys2Proof/Certificates/Slice0/Obligations.lean ====
section
/-! DEFINITION. The statements for the provers. Each says what a numbered rule of the spec says of the machine, or what
follows from several; OBLIGATIONS.json names the rule or the sections. -/

open Sys2Proof Sys2Proof.Machine

/-! ## Encoding -/

/-- Decoding the descriptor of any command gives the command back, with every operand at every value. -/
def Obligations.DecodeOfEncode : Prop :=
  ∀ i : Instr, decode (encode i) = .ok i

/-- A descriptor that decodes is the one descriptor of its command: no bit is ignored. -/
def Obligations.EncodeOfDecode : Prop :=
  ∀ (d : Descriptor) (i : Instr), decode d = .ok i → encode i = d

/-- R75: a descriptor is the command of a row exactly when D and mask = match; R72 is the extra constraint on the slots. -/
def Obligations.MatchAndMaskDecideTheCommand : Prop :=
  ∀ (d : Descriptor) (op : Byte) (mask : Descriptor), (op, mask) ∈ opcodeMasks →
    ((d &&& mask = BitVec.ofNat 160 (op.toNat * 2 ^ 152) ↔ ∃ i, decode d = .ok i ∧ opcodeOf i = op) ∧
      ∀ (n : Nat) (i : Instr), decodeIssued n d = .ok i ↔ (decode d = .ok i ∧ i.wellFormed n = true))

/-- R70, R71, R72 in the order of R73, as conditions on the descriptor's bits. -/
def Obligations.DecoderRefusesInOrder : Prop :=
  ∀ (n : Nat) (d : Descriptor),
    (decodeIssued n d = .error .opcode ↔ ∀ mask, (issuedOp d, mask) ∉ opcodeMasks) ∧
    (decodeIssued n d = .error .mustBeZero ↔
      ∃ mask, (issuedOp d, mask) ∈ opcodeMasks ∧ d &&& mask ≠ BitVec.ofNat 160 ((issuedOp d).toNat * 2 ^ 152)) ∧
    ((∃ k, decodeIssued n d = .error (.slotRange k)) ↔ ∃ i, decode d = .ok i ∧ i.wellFormed n = false)

/-- One descriptor of each family, written out from R66 and R69, decodes to its command. -/
def Obligations.WrittenOutDescriptorsDecode : Prop :=
  decode 0x0100949400000000000000100000000000000000 = .ok (.gfmul 0x94 0x94 0x10) ∧
  decode 0x1110000000000020000000000000000000000000 = .ok (.kload 1 0x20) ∧
  decode 0x2100000000000020000000300000000000000000 = .ok (.kzEnc 0 0x20 0x30) ∧
  decode 0x3210000000000028000000300000000000000000 = .ok (.mgDec 1 0x28 0x30) ∧
  decode 0x4001100000000100000002000000002000000080 = .ok (.xtsEnc 0 1 0x100 0x200 32 0x80 16)

/-! ## The step, the port and the host -/

/-- A step whose next action is a descriptor that decodes runs exactly that command, the action taken off the port. -/
def Obligations.StepRunsTheDecodedCommand : Prop :=
  ∀ (s : State) (rest : List HostAction) (d : Descriptor) (i : Instr),
    s.port = .command d :: rest → decodeIssued s.cfg.nSlots d = .ok i → step s = exec i { s with port := rest }

/-- R70, R71, R72: an illegal descriptor raises `E_ILLEGAL` sub 0, 1 or 2 and changes nothing but the status registers. -/
def Obligations.IllegalDescriptorChangesOnlyStatus : Prop :=
  ∀ (s : State) (rest : List HostAction) (d : Descriptor), s.port = .command d :: rest → s.halted = false →
    let s' := { s with port := rest }
    ((∀ mask, (issuedOp d, mask) ∉ opcodeMasks) → step s = .next (s'.endedWith (issuedOp d) 7 0 0)) ∧
    (∀ mask, (issuedOp d, mask) ∈ opcodeMasks → d &&& mask ≠ BitVec.ofNat 160 ((issuedOp d).toNat * 2 ^ 152) →
      step s = .next (s'.endedWith (issuedOp d) 7 1 0)) ∧
    (∀ i ks kts, decode d = .ok i → slotFields i = ks :: kts → s.cfg.nSlots ≤ ks.toNat →
      step s = .next (s'.endedWith (issuedOp d) 7 2 ks)) ∧
    (∀ i ks kt, decode d = .ok i → slotFields i = [ks, kt] → ks.toNat < s.cfg.nSlots → s.cfg.nSlots ≤ kt.toNat →
      step s = .next (s'.endedWith (issuedOp d) 7 2 kt))

/-- R222: while HALTED every descriptor, whatever its bits, ends with `E_NOTABLES` sub 1 and no other write; the status
registers stay readable; only reset clears HALTED, and it empties every slot. -/
def Obligations.HaltedCoreRefusesEveryDescriptor : Prop :=
  (∀ (s : State) (rest : List HostAction) (d : Descriptor), s.port = .command d :: rest → s.halted = true →
    step s = .next (({ s with port := rest } : State).endedWith (d.extractLsb' 152 8) 8 1 0)) ∧
  (∀ (s : State) (off : Addr), perform (.status off) s = .next { s with reply := .word (s.statusAt off.toNat) }) ∧
  (∀ (s t : State) (a : HostAction), perform a s = .next t → s.halted = true → t.halted = false →
    ∃ cfg, a = .reset cfg ∧ ∀ k, (t.slotAt k).alg = .empty)

/-- With nothing presented the core waits and nothing changes. -/
def Obligations.IdleCoreWaits : Prop :=
  ∀ s : State, s.port = [] → step s = .next s

/-- R64: a host write inside `MEM` writes its bytes and nothing else; a host read returns the bytes that lie there; a
status read returns the register; outside `MEM` the host has no move. -/
def Obligations.HostAccess : Prop :=
  ∀ (s : State) (a : Addr) (bs : List Byte) (off : Addr),
    (a.toNat + bs.length ≤ s.cfg.memSize →
      (∃ t, perform (.write a bs) s = .next t ∧ t = { s with mem := t.mem } ∧
        memRead t.mem a.toNat bs.length = .ok bs ∧
        ∀ x, ¬ within x a.toNat bs.length → memByte t.mem x = memByte s.mem x) ∧
      (memRead s.mem a.toNat bs.length = .ok bs →
        perform (.read a bs.length) s = .next { s with reply := .bytes bs })) ∧
    (s.cfg.memSize < a.toNat + bs.length →
      perform (.write a bs) s = .refused .hostOutsideMemory ∧
        perform (.read a bs.length) s = .refused .hostOutsideMemory) ∧
    perform (.status off) s = .next { s with reply := .word (s.statusAt off.toNat) }

/-- The reset input: with a legal configuration every slot is EMPTY with flags, codes and counter 0, no table, no error,
nothing known of `MEM`, and the status space reads as 0 but for the `compat` bit of `STATUS`; an illegal configuration is
refused. That a reset may change `N_SLOTS` and `MEM_SIZE` as it may the other three parameters is the model's choice
(log 24). The zero in `raw`, `mask` and the arrays is the model's choice and not stated here. -/
def Obligations.ResetInput : Prop :=
  ∀ (s : State) (cfg : Config),
    (cfg.valid = false → perform (.reset cfg) s = .refused .badConfiguration) ∧
    (cfg.valid = true → ∃ t, perform (.reset cfg) s = .next t ∧ t.cfg = cfg ∧ t.slots.length = cfg.nSlots ∧
      (∀ sl ∈ t.slots, sl.alg = .empty ∧ sl.masked = false ∧ sl.icodeSet = false ∧ sl.sched = false ∧
        sl.icode = 0 ∧ sl.rkicode = 0 ∧ sl.res = 0) ∧
      t.tablesValid = false ∧ t.halted = false ∧ (∀ a, memByte t.mem a = none) ∧
      ∀ off, t.statusAt off = if off = 0 ∧ cfg.compat = true then 0x400 else 0)

/-! ## Invariants and whole-machine rules -/

/-- The state after reset meets the machine's invariant. -/
def Obligations.ResetMeetsTheInvariant : Prop :=
  State.reset.Inv

/-- R32: every step from a state that meets the invariants leads to one that meets them, whatever the host does, and
they hold after every reset: so every reachable state meets them. -/
def Obligations.InvariantsHoldInEveryReachableState : Prop :=
  (∀ cfg : Config, cfg.valid = true → (State.resetWith cfg).Inv) ∧
  ∀ s t : State, s.Inv → step s = .next t → t.Inv

/-- Every command that completes writes `STATUS.code`, `ERRINFO` and `FAULTS` as R218 says, with a pair of code and
sub-cause of R212's table, and records its own opcode. -/
def Obligations.CompletionReportsTheCommand : Prop :=
  ∀ (i : Instr) (s t : State), exec i s = .next t →
    t.errOp = opcodeOf i ∧
    (t.code.toNat, t.errSub.toNat) ∈
      [(0, 0), (1, 0), (1, 1), (1, 2), (2, 0), (2, 1), (3, 0), (3, 1), (3, 2), (3, 3), (3, 4), (4, 0), (4, 1), (5, 0),
        (5, 1), (5, 2), (5, 3), (5, 4), (5, 5), (6, 0), (7, 2), (8, 0), (8, 1)] ∧
    (t.code = 0 → t.errSlot = 0) ∧
    (t.code = 3 → t.errSlot = 0) ∧ (t.code = 8 → t.errSlot = 0) ∧
    t.errSlot ∈ 0 :: slotFields i ∧
    t.faults = if t.code = 0 then s.faults else s.faults ||| (1#32 <<< t.code.toNat)

/-- R38: bit c of `FAULTS` is set when a command completes with error code c, a descriptor that is no command included,
and cleared only by reset; bits 0 and 31:9 read as 0; `FAULTS` stays 0 exactly as long as no command fails. -/
def Obligations.FaultsAreSticky : Prop :=
  (∀ (i : Instr) (s t : State) (c : Nat), exec i s = .next t → t.code = BitVec.ofNat 8 c → 1 ≤ c → c ≤ 8 →
    t.faults.getLsbD c = true) ∧
  (∀ (d : Descriptor) (s t : State), perform (.command d) s = .next t →
    (∀ c, t.code = BitVec.ofNat 8 c → 1 ≤ c → c ≤ 8 → t.faults.getLsbD c = true) ∧
    (t.faults = 0 ↔ s.faults = 0 ∧ t.code = 0)) ∧
  (∀ (a : HostAction) (s t : State) (c : Nat), perform a s = .next t → s.faults.getLsbD c = true →
    t.faults.getLsbD c = true ∨ ∃ cfg, a = .reset cfg) ∧
  (∀ (s : State) (c : Nat), s.Inv → (c = 0 ∨ 9 ≤ c) → (s.statusAt 0x008).getLsbD c = false)

/-- The bits of `STATUS`, `ERRINFO`, `FAULTS` and the slot registers, and zero at every other offset (R36 to R41). -/
def Obligations.StatusSpaceLayout : Prop :=
  ∀ (s : State) (k : SlotIx) (off : Nat),
    (s.statusAt 0 = BitVec.ofNat 32 (s.code.toNat + 0x100 * s.halted.toNat + 0x200 * s.tablesValid.toNat +
      0x400 * s.cfg.compat.toNat)) ∧
    (s.statusAt 4 = BitVec.ofNat 32 (s.errSub.toNat + 0x100 * s.errOp.toNat + 0x10000 * s.errSlot.toNat)) ∧
    (s.statusAt 8 = s.faults) ∧
    (k.toNat < s.cfg.nSlots →
      s.statusAt (0x100 + 0x10 * k.toNat) = BitVec.ofNat 32 ((s.slotAt k).alg.number.toNat +
        4 * (s.slotAt k).masked.toNat + 8 * (s.slotAt k).icodeSet.toNat + 16 * (s.slotAt k).sched.toNat) ∧
      s.statusAt (0x104 + 0x10 * k.toNat) = BitVec.ofNat 32 ((s.slotAt k).res.toNat % 2 ^ 32) ∧
      s.statusAt (0x108 + 0x10 * k.toNat) = BitVec.ofNat 32 ((s.slotAt k).res.toNat / 2 ^ 32)) ∧
    (off ∉ [0, 4, 8] → (∀ j < s.cfg.nSlots, off ∉ [0x100 + 0x10 * j, 0x104 + 0x10 * j, 0x108 + 0x10 * j]) →
      s.statusAt off = 0)

/-- A command refused by a check of steps 1 to 8 reports the first that fails in R217's one order for all commands and
changes nothing but the status registers, but for HALTED on `E_NOTABLES` sub 0. -/
def Obligations.ChecksFollowTheGlobalOrder : Prop :=
  ∀ (i : Instr) (s : State) (e : CoreError), refusalOf i s = some e →
    exec i s = .next { s.endedWith (opcodeOf i) e.code e.sub e.slot with
      halted := s.halted || decide (e = .noTables) }

/-- R17: a command that makes all its requests before its first write is left without effect by the first that fails:
`E_ENTROPY` sub 0 with the slot the command names, the requests up to it spent. -/
def Obligations.FailedDrawChangesNothing : Prop :=
  ∀ (i : Instr) (s : State) (j : Nat), isXts i = false → refusalOf i s = none → j < (drawsOf i s).length →
    answersOk s j → answerAt s j = none →
    exec i s = .next ((afterAnswers s (j + 1)).endedWith (opcodeOf i) 6 0 (reportedSlot i))

/-- A command that ends in error has changed nothing but the status registers, HALTED and the entropy source's position;
the one exception is XTS ending with `E_ENTROPY`. -/
def Obligations.FailureChangesOnlyStatus : Prop :=
  ∀ (i : Instr) (s t : State), exec i s = .next t → t.code ≠ 0 → (isXts i = true → t.code ≠ 6) → SameButStatus s t

/-- Every command ends, from every state, with a completion; the model stops only at a byte of `MEM` that nothing has
written, and never refuses. -/
def Obligations.EveryCommandEnds : Prop :=
  ∀ (i : Instr) (s : State),
    (∃ t, exec i s = .next t) ∨ (∃ a, exec i s = .fault (.unwrittenRead a) ∧ memByte s.mem a = none)

/-- A command changes no byte of `MEM` outside the bytes it stores to: one at `dst` for GFMUL, a block at `dst` for the
block commands, `len` at `dst` for XTS, none for every other command. -/
def Obligations.CommandsStoreOnlyAtTheirDestination : Prop :=
  ∀ (i : Instr) (s t : State) (a : Nat), exec i s = .next t →
    (match i with
      | .gfmul _ _ dst => ¬ within a dst.toNat 1
      | .kzEnc _ _ dst | .kzDec _ _ dst => ¬ within a dst.toNat 16
      | .mgEnc _ _ dst | .mgDec _ _ dst => ¬ within a dst.toNat 8
      | .xtsEnc _ _ _ dst len _ _ | .xtsDec _ _ _ dst len _ _ => ¬ within a dst.toNat len.toNat
      | _ => True) →
    memByte t.mem a = memByte s.mem a

/-- What no command changes: the configuration; the tables' bit but for TBUILD; HALTED but for `E_NOTABLES`; every slot the
command does not name, so every slot for GFMUL and TBUILD; and every slot for KCHKICODE. That the host's actions still to
come and its last answer stay is the model's own form of the host's side, not a rule (logs 5 and 11). -/
def Obligations.CommandsFrame : Prop :=
  ∀ (i : Instr) (s t : State), exec i s = .next t →
    t.cfg = s.cfg ∧ t.port = s.port ∧ t.reply = s.reply ∧
    (i ≠ .tbuild → t.tablesValid = s.tablesValid) ∧
    (t.code ≠ 8 → t.halted = s.halted) ∧
    (∀ k, k ∉ slotFields i → t.slotAt k = s.slotAt k) ∧
    (∀ k, i = .kchkicode k → t.slots = s.slots)

/-- No command raises a resource counter but KCREATE on an EMPTY slot, and a block command that succeeds takes exactly
what it performed, with no wrap (R103). -/
def Obligations.ResourceOnlyFalls : Prop :=
  ∀ (i : Instr) (s t : State), exec i s = .next t →
    (∀ k, (t.slotAt k).res.toNat ≤ (s.slotAt k).res.toNat ∨
      ((s.slotAt k).alg = .empty ∧ ∃ alg, i = .kcreate k alg)) ∧
    (∀ k src dst, k.toNat < s.slots.length →
      (i = .kzEnc k src dst ∨ i = .kzDec k src dst ∨ i = .mgEnc k src dst ∨ i = .mgDec k src dst) → t.code = 0 →
      (t.slotAt k).res.toNat + 1 = (s.slotAt k).res.toNat)

/-! ## Field arithmetic and tables -/

/-- GFMUL writes the product of its operands at `dst` and changes nothing else but the status registers. -/
def Obligations.GfmulWritesTheProduct : Prop :=
  ∀ (x y : Byte) (dst : Addr) (s : State), refusalOf (.gfmul x y dst) s = none →
    ∃ t, exec (.gfmul x y dst) s = .next t ∧ t = { s.ended 0x01 with mem := t.mem } ∧
      memByte t.mem dst.toNat = some (gfMul x y) ∧ ∀ a, a ≠ dst.toNat → memByte t.mem a = memByte s.mem a

/-- TBUILD makes the tables valid, whether or not they were, and changes nothing else but the status registers. -/
def Obligations.TbuildMakesTheTablesValid : Prop :=
  ∀ s : State, s.halted = false → exec .tbuild s = .next { s.ended 0x02 with tablesValid := true }

/-- R82: the laws and the worked values of the multiplier. -/
def Obligations.GfMulLaws : Prop :=
  (∀ x, gfMul x 0 = 0 ∧ gfMul 0 x = 0 ∧ gfMul x 1 = x) ∧
  (∀ x y, gfMul x y = gfMul y x) ∧
  (∀ x y w, gfMul x (y ^^^ w) = gfMul x y ^^^ gfMul x w) ∧
  (∀ x y w, gfMul (gfMul x y) w = gfMul x (gfMul y w)) ∧
  (∀ x, x ≠ 0 → ∃ y, gfMul x y = 1 ∧ ∀ w, gfMul x w = 1 → w = y) ∧
  gfMul 0x02 0x80 = 0xC3 ∧ gfMul 0x02 0x40 = 0x80 ∧ gfMul 0x10 0x10 = 0xC3 ∧ gfMul 0x94 0x94 = 0xA4 ∧
  gfMul 0xFF 0xFF = 0x06 ∧ gfMul 0x02 0xE1 = 0x01

/-- The two S-boxes are inverse to each other, and so are the block maps built on them; with R85's example. -/
def Obligations.SubstitutionsAreInverse : Prop :=
  (∀ v, sboxInv (sbox v) = v) ∧ (∀ v, sbox (sboxInv v) = v) ∧
  (∀ a, subBytesInv (subBytes a) = a) ∧ (∀ a, subBytes (subBytesInv a) = a) ∧
  subBytes 0xffeeddccbbaa99881122334455667700 = 0xb66cd8887d38e8d77765aeea0c9a7efc

/-- R87, R88: the step R moves every byte one place toward index 0 and lets `lin(a)` in at index 15, with the rule's four
examples; R_INV moves every byte one place up and puts `lin` of the rotated block at index 0; R_INV undoes R. -/
def Obligations.ShiftStepAndItsInverse : Prop :=
  (∀ a : Block, (∀ j < 15, byteAt (stepR a) j = byteAt a (j + 1)) ∧ byteAt (stepR a) 15 = lin a ∧
    (∀ j < 15, byteAt (stepRInv a) (j + 1) = byteAt a j) ∧
    byteAt (stepRInv a) 0 = lin (blockOf fun j => if j = 0 then byteAt a 15 else byteAt a (j - 1)) ∧
    stepRInv (stepR a) = a ∧ stepR (stepRInv a) = a) ∧
  stepR 0x00000000000000000000000000000100 = 0x94000000000000000000000000000001 ∧
  stepR 0x94000000000000000000000000000001 = 0xa5940000000000000000000000000000 ∧
  stepR 0xa5940000000000000000000000000000 = 0x64a59400000000000000000000000000 ∧
  stepR 0x64a59400000000000000000000000000 = 0x0d64a594000000000000000000000000

/-- R89: L is sixteen steps R and L_INV sixteen steps R_INV; L is linear over GF(2^8), additive and compatible with the
multiplication of every byte by one factor, and L_INV undoes it; with the rule's four examples. -/
def Obligations.LinearTransformLaws : Prop :=
  (∀ a, linear a = stepR^[16] a ∧ linearInv a = stepRInv^[16] a) ∧
  (∀ a b, linear (a ^^^ b) = linear a ^^^ linear b) ∧
  (∀ (c : Byte) (a : Block),
    linear (blockOf fun j => gfMul c (byteAt a j)) = blockOf fun j => gfMul c (byteAt (linear a) j)) ∧
  (∀ a, linearInv (linear a) = a) ∧
  linear 0x64a59400000000000000000000000000 = 0xd456584dd0e3e84cc3166e4b7fa2890d ∧
  linear 0xd456584dd0e3e84cc3166e4b7fa2890d = 0x79d26221b87b584cd42fbc4ffea5de9a ∧
  linear 0x79d26221b87b584cd42fbc4ffea5de9a = 0x0e93691a0cfc60408b7b68f66b513c13 ∧
  linear 0x0e93691a0cfc60408b7b68f66b513c13 = 0xe6a8094fee0aa204fd97bcb0b44b8580

/-- The sixteen table lookups compute the substitution and the linear map they stand for, in both directions (R91 to
R93). -/
def Obligations.TablesComputeTheRound : Prop :=
  ∀ a : Block, lookupLS a = linear (subBytes a) ∧ lookupLSI a = linearInv (subBytesInv a)

/-! ## Masked-key container -/

/-- KCREATE makes the instance: the zero key under the drawn mask, ICODE and SCHED clear, the configured counter. -/
def Obligations.KcreateMakesTheInstance : Prop :=
  ∀ (ks : SlotIx) (alg : Byte) (s : State), refusalOf (.kcreate ks alg) s = none → answersOk s 1 →
    exec (.kcreate ks alg) s = .next
      { (afterAnswers s 1).ended 0x10 with
        slots := s.slots.set ks.toNat
          { s.slotAt ks with
            alg := if alg = 1 then .kuz else .magma
            mask := drawn s 0 32
            raw := drawn s 0 32
            masked := true
            icodeSet := false
            sched := false
            icode := 0
            rkicode := 0
            res := if alg = 1 then s.cfg.kuzResource else s.cfg.magmaResource } } ∧
    ∀ a m, maskOn a 0 m = m

/-- KLOAD stores the 32 bytes at `src` under the slot's mask with their code: the true key is then those bytes. -/
def Obligations.KloadWritesTheKey : Prop :=
  ∀ (ks : SlotIx) (src : Addr) (s : State), refusalOf (.kload ks src) s = none → readable s src.toNat 32 →
    let sl := s.slotAt ks
    let v := ofBytes 256 (bytesAt s src.toNat 32)
    let sl' := { sl with raw := maskOn sl.alg v sl.mask, icode := integrityCode (bytesAt s src.toNat 32), icodeSet := true }
    exec (.kload ks src) s = .next { s.ended 0x11 with slots := s.slots.set ks.toNat sl' } ∧ sl'.trueKey = v

/-- KSETMASK, KZ.REMASK and MG.REMASK put the key and, if there is a schedule, both round-key arrays under fresh masks:
the true key and every unmasked round key stay, and so does everything else in the slot. -/
def Obligations.RemaskingCommandsChangeOnlyMasks : Prop :=
  ∀ (i : Instr) (ks : SlotIx) (s : State), i = .ksetmask ks ∨ i = .kzRemask ks ∨ i = .mgRemask ks → s.Inv →
    refusalOf i s = none → answersOk s (drawsOf i s).length →
    ∃ sl', exec i s = .next
        { (afterAnswers s (drawsOf i s).length).ended (opcodeOf i) with slots := s.slots.set ks.toNat sl' } ∧
      (let sl := s.slotAt ks
       sl'.trueKey = sl.trueKey ∧ sl'.mask = drawn s 0 32 ∧ sl'.raw = maskOn sl.alg sl.trueKey (drawn s 0 32) ∧
       sl' = { sl with
        raw := sl'.raw, mask := sl'.mask, masked := true,
        ek := sl'.ek, em := sl'.em, dk := sl'.dk, dm := sl'.dm, fk := sl'.fk, fm := sl'.fm, ik := sl'.ik, im := sl'.im } ∧
       (if sl.sched = true ∧ sl.alg = .kuz then
          sl'.em = drawBlocks (drawn s 1 160) ∧ sl'.dm = drawBlocks (drawn s 2 160) ∧
          xorBlocks sl'.ek sl'.em = xorBlocks sl.ek sl.em ∧ xorBlocks sl'.dk sl'.dm = xorBlocks sl.dk sl.dm
        else sl'.ek = sl.ek ∧ sl'.em = sl.em ∧ sl'.dk = sl.dk ∧ sl'.dm = sl.dm) ∧
       (if sl.sched = true ∧ sl.alg = .magma then
          sl'.fm = drawWords (drawn s 1 32) ∧ sl'.im = drawWords (drawn s 2 32) ∧
          subWords sl'.fk sl'.fm = subWords sl.fk sl.fm ∧ subWords sl'.ik sl'.im = subWords sl.ik sl.im
        else sl'.fk = sl.fk ∧ sl'.fm = sl.fm ∧ sl'.ik = sl.ik ∧ sl'.im = sl.im))

/-- KUNMASK leaves the true key in `raw`, a zero mask and MASKED clear, and changes nothing on an unmasked slot. -/
def Obligations.KunmaskRestoresTheKey : Prop :=
  ∀ (ks : SlotIx) (s : State), refusalOf (.kunmask ks) s = none →
    let sl := s.slotAt ks
    let sl' := { sl with raw := sl.trueKey, mask := 0, masked := false }
    exec (.kunmask ks) s = .next
      { s.ended 0x13 with slots := s.slots.set ks.toNat (if sl.masked then sl' else sl) } ∧
    sl'.trueKey = sl.trueKey

/-- KSETICODE sets the code of the true key and the flag ICODE. -/
def Obligations.KseticodeCertifiesTheKey : Prop :=
  ∀ (ks : SlotIx) (s : State), refusalOf (.kseticode ks) s = none →
    exec (.kseticode ks) s = .next
      { s.ended 0x14 with
        slots := s.slots.set ks.toNat
          { s.slotAt ks with icode := integrityCode (toBytes 32 (s.slotAt ks).trueKey), icodeSet := true } }

/-- KCHKICODE of an intact key writes only the status registers. -/
def Obligations.KchkicodeOfAnIntactKey : Prop :=
  ∀ (ks : SlotIx) (s : State), s.halted = false → ks.toNat < s.cfg.nSlots → (s.slotAt ks).alg ≠ .empty →
    (s.slotAt ks).icodeSet = true → integrityCode (toBytes 32 (s.slotAt ks).trueKey) = (s.slotAt ks).icode →
    exec (.kchkicode ks) s = .next (s.ended 0x15)

/-- KDESTROY overwrites key, mask and the engine's four arrays with six draws and leaves the slot EMPTY. -/
def Obligations.KdestroyErasesTheSlot : Prop :=
  ∀ (ks : SlotIx) (s : State), refusalOf (.kdestroy ks) s = none → answersOk s 6 →
    let sl := s.slotAt ks
    let cleared := { sl with
      alg := .empty, raw := drawn s 0 32, mask := drawn s 1 32, masked := false, icodeSet := false, sched := false,
      icode := 0, rkicode := 0, res := 0 }
    exec (.kdestroy ks) s = .next
      { (afterAnswers s 6).ended 0x16 with
        slots := s.slots.set ks.toNat
          (if sl.alg = .magma then
            { cleared with
              fk := drawWords (drawn s 2 32), fm := drawWords (drawn s 3 32),
              ik := drawWords (drawn s 4 32), im := drawWords (drawn s 5 32) }
          else
            { cleared with
              ek := drawBlocks (drawn s 2 160), em := drawBlocks (drawn s 3 160),
              dk := drawBlocks (drawn s 4 160), dm := drawBlocks (drawn s 5 160) }) }

/-- The integrity code in closed form: the sum of the 16-bit words and the sum of the running sums, each modulo 65535. -/
def Obligations.IntegrityCodeClosedForm : Prop :=
  ∀ ws : List (BitVec 16),
    integrityCode (ws.flatMap fun w => [w.extractLsb' 0 8, w.extractLsb' 8 8]) =
      BitVec.ofNat 32
        ((((ws.zipIdx.map fun p => (ws.length - p.2) * p.1.toNat).sum) % 65535) * 65536 +
          ((ws.map BitVec.toNat).sum) % 65535)

/-- Masking and unmasking undo each other in both families, and re-masking in place, the new mask on before the old one
is off, keeps the true value (R18, R107). -/
def Obligations.MaskingLaws : Prop :=
  ∀ (alg : Alg) (v m n : KeyBytes),
    maskOff alg (maskOn alg v m) m = v ∧ maskOn alg (maskOff alg v m) m = v ∧ maskOff alg v 0 = v ∧
    maskOff alg (maskOff alg (maskOn alg (maskOn alg v m) n) m) n = v

/-! ## Kuznechik -/

/-- KZ.SCHED stores the schedule of the true key under the two drawn mask arrays; and the schedule of the standard's key
is R148's: the ten encryption and the ten decryption round keys, byte 0 the least significant. -/
def Obligations.KzSchedStoresTheMaskedSchedule : Prop :=
  (∀ (ks : SlotIx) (s : State), refusalOf (.kzSched ks) s = none → answersOk s 2 →
    let sl := s.slotAt ks
    let keys := kzRoundKeys sl.trueKey
    let em := drawBlocks (drawn s 0 160)
    let dm := drawBlocks (drawn s 1 160)
    exec (.kzSched ks) s = .next
      { (afterAnswers s 2).ended 0x20 with
        slots := s.slots.set ks.toNat
          { sl with
            em := em, ek := xorBlocks keys em, dm := dm, dk := xorBlocks (kzDecKeys keys) dm,
            rkicode := integrityCode ((keys ++ kzDecKeys keys).flatMap (toBytes 16)), sched := true } } ∧
    xorBlocks (xorBlocks keys em) em = keys ∧ xorBlocks (xorBlocks (kzDecKeys keys) dm) dm = kzDecKeys keys) ∧
  (let keys : List Block :=
    [0x8899aabbccddeeff0011223344556677, 0xfedcba98765432100123456789abcdef, 0xdb31485315694343228d6aef8cc78c44,
      0x3d4553d8e9cfec6815ebadc40a9ffd04, 0x57646468c44a5e28d3e59246f429f1ac, 0xbd079435165c6432b532e82834da581b,
      0x51e640757e8745de705727265a0098b1, 0x5a7925017b9fdd3ed72a91a22286f984, 0xbb44e25378c73123a5f32f73cdb6e517,
      0x72e9dd7416bcf45b755dbaa88e4a4043]
   kzRoundKeys 0x8899aabbccddeeff0011223344556677fedcba98765432100123456789abcdef = keys ∧
    kzDecKeys keys =
      [0x8899aabbccddeeff0011223344556677, 0x37edf507f2090627477c10b396f35a31, 0xd06f4094f860830093d749cd38939216,
        0xe60fce12efb4465985875cbea0201d6e, 0x0246e0941e5f725e8f57fa98a85835d7, 0xfb6f7bd4f50a029a654c028fda4f03a6,
        0x413d8ed7755fc2b684ac1d5fed62a238, 0x311fd692c433761e785581d108df5ef4, 0x69d180f40653b3cc3974647955e68328,
        0x5a6c415bef3ff261e070f0d7e87f3b02])

/-- R139: the nine checks of KZ.ENC and KZ.DEC in their order; the first that fails ends the command with nothing written
but the status registers, and HALTED for the tables. -/
def Obligations.KzBlockChecksInOrder : Prop :=
  ∀ (ks : SlotIx) (src dst : Addr) (s : State) (i : Instr) (e : CoreError),
    i = .kzEnc ks src dst ∨ i = .kzDec ks src dst → s.halted = false →
    firstFailure
      [(decide (s.cfg.nSlots ≤ ks.toNat), .slotRange ks),
       (decide ((s.slotAt ks).alg = .empty), .emptyData ks),
       (decide ((s.slotAt ks).alg ≠ .kuz), .wrongEngine ks),
       (!(s.slotAt ks).sched, .unscheduled ks),
       (decide (s.cfg.memSize < src.toNat + 16), .srcRange),
       (decide (s.cfg.memSize < dst.toNat + 16), .dstRange),
       (!s.tablesValid, .noTables),
       (!(s.slotAt ks).icodeSet, .noIcode ks),
       (decide (integrityCode (toBytes 32 (s.slotAt ks).trueKey) ≠ (s.slotAt ks).icode), .keyMismatch ks),
       (decide (kzRoundCode (xorBlocks (s.slotAt ks).ek (s.slotAt ks).em)
          (xorBlocks (s.slotAt ks).dk (s.slotAt ks).dm) ≠ (s.slotAt ks).rkicode), .roundKeyMismatch ks),
       (decide ((s.slotAt ks).res = 0), .dataResource ks)] = some e →
    exec i s = .next { s.endedWith (opcodeOf i) e.code e.sub e.slot with halted := decide (e = .noTables) }

/-- KZ.ENC and KZ.DEC write the block at `src`, encrypted or decrypted under the slot's masked arrays, to `dst` and take
one unit of resource. -/
def Obligations.KzBlockCommandsWriteTheOutput : Prop :=
  ∀ (ks : SlotIx) (src dst : Addr) (s : State) (i : Instr) (out : Block → Block),
    (i = .kzEnc ks src dst ∧ out = kzEncryptWith (s.slotAt ks).ek (s.slotAt ks).em) ∨
      (i = .kzDec ks src dst ∧ out = kzDecryptWith (s.slotAt ks).dk (s.slotAt ks).dm) →
    refusalOf i s = none → readable s src.toNat 16 →
    let sl := s.slotAt ks
    ∃ t, exec i s = .next t ∧
      t = { s.ended (opcodeOf i) with mem := t.mem, slots := s.slots.set ks.toNat { sl with res := sl.res - 1 } } ∧
      memRead t.mem dst.toNat 16 = .ok (toBytes 16 (out (ofBytes 128 (bytesAt s src.toNat 16)))) ∧
      ∀ a, ¬ within a dst.toNat 16 → memByte t.mem a = memByte s.mem a

/-- In a state that meets the invariants, the masked table pipeline of a scheduled Kuznechik slot is the classical cipher
under the slot's true key, whatever the masks are; and the classical cipher gives the ciphertext of vector V1 (R148). -/
def Obligations.KzPipelineIsTheClassicalCipher : Prop :=
  (∀ (s : State) (k : SlotIx) (a : Block), s.Inv → (s.slotAt k).alg = .kuz → (s.slotAt k).sched = true →
    (s.slotAt k).kzEncrypt a = kzClassical (kzRoundKeys (s.slotAt k).trueKey) a) ∧
  kzClassical (kzRoundKeys 0x8899aabbccddeeff0011223344556677fedcba98765432100123456789abcdef)
      0x1122334455667700ffeeddccbbaa9988 = 0x7f679d90bebc24305a468d42b9d4edcd

/-- A cipher output depends on the unmasked round keys alone (R140). -/
def Obligations.KzOutputIgnoresTheMasks : Prop :=
  ∀ (v m v' m' : List Block) (a : Block), xorBlocks v m = xorBlocks v' m' →
    kzEncryptWith v m a = kzEncryptWith v' m' a ∧ kzDecryptWith v m a = kzDecryptWith v' m' a

/-- Decryption inverts encryption for every key and all masks: the inverse-table pipeline under `DK_1 .. DK_10` undoes
the forward one under `K_1 .. K_10`. -/
def Obligations.KzDecryptInvertsEncrypt : Prop :=
  ∀ (key : KeyBytes) (em dm : List Block) (a : Block), em.length = 10 → dm.length = 10 →
    let keys := kzRoundKeys key
    kzDecryptWith (xorBlocks (kzDecKeys keys) dm) dm (kzEncryptWith (xorBlocks keys em) em a) = a

/-- KZ.DELKEYS overwrites the four arrays with four draws and clears SCHED and the round-key code; the key stays. -/
def Obligations.KzDelkeysOverwritesTheSchedule : Prop :=
  ∀ (ks : SlotIx) (s : State), refusalOf (.kzDelkeys ks) s = none → answersOk s 4 →
    exec (.kzDelkeys ks) s = .next
      { (afterAnswers s 4).ended 0x24 with
        slots := s.slots.set ks.toNat
          { s.slotAt ks with
            ek := drawBlocks (drawn s 0 160), em := drawBlocks (drawn s 1 160),
            dk := drawBlocks (drawn s 2 160), dm := drawBlocks (drawn s 3 160), rkicode := 0, sched := false } }

/-! ## Magma -/

/-- MG.SCHED stores the forward words and the negated words under the two drawn mask arrays, by addition; and the words
of the standard's key are R178's, in the native and in the compatible layout, with their negations and their code. -/
def Obligations.MgSchedStoresTheMaskedSchedule : Prop :=
  (∀ (ks : SlotIx) (s : State), refusalOf (.mgSched ks) s = none → answersOk s 2 →
    let sl := s.slotAt ks
    let keys := mgKeyWords s.cfg.compat sl.trueKey
    let fm := drawWords (drawn s 0 32)
    let im := drawWords (drawn s 1 32)
    exec (.mgSched ks) s = .next
      { (afterAnswers s 2).ended 0x30 with
        slots := s.slots.set ks.toNat
          { sl with
            fm := fm, fk := addWords keys fm, im := im, ik := addWords (negWords keys) im,
            rkicode := integrityCode ((keys ++ negWords keys).flatMap (toBytes 4)), sched := true } } ∧
    subWords (addWords keys fm) fm = keys ∧ subWords (addWords (negWords keys) im) im = negWords keys) ∧
  (let keys : List Word :=
    [0xffeeddcc, 0xbbaa9988, 0x77665544, 0x33221100, 0xf0f1f2f3, 0xf4f5f6f7, 0xf8f9fafb, 0xfcfdfeff]
   mgKeyWords false 0xffeeddccbbaa99887766554433221100f0f1f2f3f4f5f6f7f8f9fafbfcfdfeff = keys ∧
    mgKeyWords true 0xfffefdfcfbfaf9f8f7f6f5f4f3f2f1f000112233445566778899aabbccddeeff = keys ∧
    negWords keys =
      [0x00112234, 0x44556678, 0x8899aabc, 0xccddef00, 0x0f0e0d0d, 0x0b0a0909, 0x07060505, 0x03020101] ∧
    mgRoundCode keys (negWords keys) = 0x38880008)

/-- R171's checks of MG.ENC and MG.DEC before the draws, in their order; the tables are not among them. -/
def Obligations.MgBlockChecksInOrder : Prop :=
  ∀ (ks : SlotIx) (src dst : Addr) (s : State) (i : Instr) (e : CoreError),
    i = .mgEnc ks src dst ∨ i = .mgDec ks src dst → s.halted = false →
    firstFailure
      [(decide (s.cfg.nSlots ≤ ks.toNat), .slotRange ks),
       (decide ((s.slotAt ks).alg = .empty), .emptyData ks),
       (decide ((s.slotAt ks).alg ≠ .magma), .wrongEngine ks),
       (!(s.slotAt ks).sched, .unscheduled ks),
       (decide (s.cfg.memSize < src.toNat + 8), .srcRange),
       (decide (s.cfg.memSize < dst.toNat + 8), .dstRange),
       (!(s.slotAt ks).icodeSet, .noIcode ks),
       (decide (integrityCode (toBytes 32 (s.slotAt ks).trueKey) ≠ (s.slotAt ks).icode), .keyMismatch ks),
       (decide (mgRoundCode (subWords (s.slotAt ks).fk (s.slotAt ks).fm)
          (subWords (s.slotAt ks).ik (s.slotAt ks).im) ≠ (s.slotAt ks).rkicode), .roundKeyMismatch ks),
       (decide ((s.slotAt ks).res = 0), .dataResource ks)] = some e →
    exec i s = .next (s.endedWith (opcodeOf i) e.code e.sub e.slot)

/-- MG.ENC and MG.DEC make 32 draws, write the block at `src` crypted in their order of round keys to `dst` and take one
unit of resource. -/
def Obligations.MgBlockCommandsWriteTheOutput : Prop :=
  ∀ (ks : SlotIx) (src dst : Addr) (s : State) (i : Instr) (ord : List Nat),
    (i = .mgEnc ks src dst ∧ ord = encOrder) ∨ (i = .mgDec ks src dst ∧ ord = decOrder) →
    refusalOf i s = none → answersOk s 32 → readable s src.toNat 8 →
    let sl := s.slotAt ks
    let rho := (List.range 32).map fun r => drawn s r 4
    ∃ t, exec i s = .next t ∧
      t = { (afterAnswers s 32).ended (opcodeOf i) with
        mem := t.mem, slots := s.slots.set ks.toNat { sl with res := sl.res - 1 } } ∧
      memRead t.mem dst.toNat 8 = .ok (toBytes 8
        (mgCryptWith s.cfg.compat ⟨sl.fk, sl.fm, sl.ik, sl.im⟩ ord rho (ofBytes 64 (bytesAt s src.toNat 8)))) ∧
      ∀ a, ¬ within a dst.toNat 8 → memByte t.mem a = memByte s.mem a

/-- R170: the masked rounds equal the classical cipher of R164 for every value of the draws and of the masks; with R163's
worked values of t and g, and R178's block and ciphertext in both layouts and both directions. -/
def Obligations.MgMaskedRoundsAreTheClassicalCipher : Prop :=
  (∀ (compat : Bool) (keys fm im rho : List Word) (ord : List Nat) (b : HalfBlock),
    keys.length = 8 → fm.length = 8 → im.length = 8 → rho.length = 32 → ord = encOrder ∨ ord = decOrder →
    mgCryptWith compat ⟨addWords keys fm, fm, addWords (negWords keys) im, im⟩ ord rho b =
      mgBlock compat (mgClassical keys ord (mgHalves compat b))) ∧
  mgSubst 0xfdb97531 = 0x2a196f34 ∧ mgSubst 0x2a196f34 = 0xebd9f03a ∧ mgSubst 0xebd9f03a = 0xb039bb3d ∧
  mgSubst 0xb039bb3d = 0x68695433 ∧
  mgG 0x87654321 0xfedcba98 = 0xfdcbc20c ∧ mgG 0xfdcbc20c 0x87654321 = 0x7e791a4b ∧
  mgG 0x7e791a4b 0xfdcbc20c = 0xc76549ec ∧ mgG 0xc76549ec 0x7e791a4b = 0x9791c849 ∧
  (let keys : List Word :=
    [0xffeeddcc, 0xbbaa9988, 0x77665544, 0x33221100, 0xf0f1f2f3, 0xf4f5f6f7, 0xf8f9fafb, 0xfcfdfeff]
   mgClassical keys encOrder (0xfedcba98, 0x76543210) = (0x4ee901e5, 0xc2d8ca3d) ∧
    mgClassical keys decOrder (0x4ee901e5, 0xc2d8ca3d) = (0xfedcba98, 0x76543210) ∧
    mgHalves false (ofBytes 64 [0x10, 0x32, 0x54, 0x76, 0x98, 0xba, 0xdc, 0xfe]) = (0xfedcba98, 0x76543210) ∧
    mgHalves true (ofBytes 64 [0xfe, 0xdc, 0xba, 0x98, 0x76, 0x54, 0x32, 0x10]) = (0xfedcba98, 0x76543210) ∧
    toBytes 8 (mgBlock false (0x4ee901e5, 0xc2d8ca3d)) = [0x3d, 0xca, 0xd8, 0xc2, 0xe5, 0x01, 0xe9, 0x4e] ∧
    toBytes 8 (mgBlock true (0x4ee901e5, 0xc2d8ca3d)) = [0x4e, 0xe9, 0x01, 0xe5, 0xc2, 0xd8, 0xca, 0x3d])

/-- Decryption inverts encryption under either convention, for every key, all masks and all draws. -/
def Obligations.MgDecryptInvertsEncrypt : Prop :=
  ∀ (compat : Bool) (keys fm im rho rho' : List Word) (b : HalfBlock),
    keys.length = 8 → fm.length = 8 → im.length = 8 → rho.length = 32 → rho'.length = 32 →
    let m : MagmaArrays := ⟨addWords keys fm, fm, addWords (negWords keys) im, im⟩
    mgCryptWith compat m decOrder rho' (mgCryptWith compat m encOrder rho b) = b

/-- The two conventions: with key and block reversed byte for byte, the output under `COMPAT = 1` is the byte reversal of
the output under `COMPAT = 0`. -/
def Obligations.MgConventionsAreByteReversals : Prop :=
  ∀ (key : KeyBytes) (b : HalfBlock) (ord : List Nat),
    mgBlock true (mgClassical (mgKeyWords true (ofBytes 256 (toBytes 32 key).reverse)) ord
        (mgHalves true (ofBytes 64 (toBytes 8 b).reverse))) =
      ofBytes 64
        (toBytes 8 (mgBlock false (mgClassical (mgKeyWords false key) ord (mgHalves false b)))).reverse

/-- MG.DELKEYS overwrites the four arrays with four draws and clears SCHED and the round-key code; the key stays. -/
def Obligations.MgDelkeysOverwritesTheSchedule : Prop :=
  ∀ (ks : SlotIx) (s : State), refusalOf (.mgDelkeys ks) s = none → answersOk s 4 →
    exec (.mgDelkeys ks) s = .next
      { (afterAnswers s 4).ended 0x34 with
        slots := s.slots.set ks.toNat
          { s.slotAt ks with
            fk := drawWords (drawn s 0 32), fm := drawWords (drawn s 1 32),
            ik := drawWords (drawn s 2 32), im := drawWords (drawn s 3 32), rkicode := 0, sched := false } }

/-! ## XTS -/

/-- R194: doubling shifts the little-endian integer left one bit and adds 0x87 to the low byte when the top bit left. -/
def Obligations.TweakDoubling : Prop :=
  (∀ t : Block, doubleTweak t =
    BitVec.ofNat 128 (2 * t.toNat % 2 ^ 128) ^^^ (if 2 ^ 127 ≤ t.toNat then 0x87#128 else 0#128)) ∧
  doubleTweak (ofBytes 128 [0x01]) = ofBytes 128 [0x02] ∧
  doubleTweak (ofBytes 128 [0x80]) = ofBytes 128 [0x00, 0x01] ∧
  doubleTweak (ofBytes 128 (List.replicate 15 0 ++ [0x80])) = ofBytes 128 [0x87] ∧
  doubleTweak (ofBytes 128 (List.replicate 16 0xff)) = ofBytes 128 (0x79 :: List.replicate 15 0xff)

/-- R197: the sixteen checks of XTS.ENC and XTS.DEC in their order; the first that fails ends the command with no
re-masking and no draw: only the status registers change, and HALTED for the tables. -/
def Obligations.XtsChecksInOrder : Prop :=
  ∀ (ks kt : SlotIx) (src dst : Addr) (len : Word) (iv : Addr) (ivlen : Byte) (s : State) (i : Instr) (e : CoreError),
    i = .xtsEnc ks kt src dst len iv ivlen ∨ i = .xtsDec ks kt src dst len iv ivlen → s.halted = false →
    let d := s.slotAt ks
    let w := s.slotAt kt
    let bd := if d.alg = .magma then 8 else 16
    let nt := if w.alg = .magma then 2 else 1
    firstFailure
      [(decide (s.cfg.nSlots ≤ ks.toNat), .slotRange ks),
       (decide (s.cfg.nSlots ≤ kt.toNat), .slotRange kt),
       (decide (d.alg = .empty), .emptyData ks),
       (decide (w.alg = .empty), .emptyTweak kt),
       (!d.sched, .unscheduled ks),
       (!w.sched, .unscheduled kt),
       (decide (ks = kt), .sameSlot ks),
       (decide (len.toNat % bd ≠ 0), .lenNotMultiple),
       (decide (ivlen = 0 ∨ 16 < ivlen.toNat), .ivLength),
       (decide (0 < len.toNat ∧ s.cfg.memSize < src.toNat + len.toNat), .srcRange),
       (decide (0 < len.toNat ∧ s.cfg.memSize < dst.toNat + len.toNat), .dstRange),
       (decide (s.cfg.memSize < iv.toNat + ivlen.toNat), .ivRange),
       (decide ((d.alg = .kuz ∨ w.alg = .kuz) ∧ s.tablesValid = false), .noTables),
       (!d.icodeSet, .noIcode ks),
       (decide (keyCode d.trueKey ≠ d.icode), .keyMismatch ks),
       (decide (d.roundCode ≠ d.rkicode), .roundKeyMismatch ks),
       (!w.icodeSet, .noIcode kt),
       (decide (keyCode w.trueKey ≠ w.icode), .keyMismatch kt),
       (decide (w.roundCode ≠ w.rkicode), .roundKeyMismatch kt),
       (decide (d.res.toNat < len.toNat / bd), .dataResource ks),
       (decide (w.res.toNat < nt), .tweakResource kt)] = some e →
    exec i s = .next { s.endedWith (opcodeOf i) e.code e.sub e.slot with halted := decide (e = .noTables) }

/-- XTS.ENC and XTS.DEC with every request answered: the command succeeds, takes `nb` and `nt` off the two counters,
re-masks both slots without changing a true key, a flag but MASKED or a code, and writes nothing outside `dst`. -/
def Obligations.XtsCompletes : Prop :=
  ∀ (o : XtsOperands) (s : State) (i : Instr),
    i = .xtsEnc o.ks o.kt o.src o.dst o.len o.iv o.ivlen ∨ i = .xtsDec o.ks o.kt o.src o.dst o.len o.iv o.ivlen →
    s.Inv → refusalOf i s = none → readable s o.iv.toNat o.ivlen.toNat → readable s o.src.toNat o.len.toNat →
    answersOk s (xtsBlockDraws o s + 6) →
    ∃ t, exec i s = .next t ∧
      t = { (afterAnswers s (xtsBlockDraws o s + 6)).ended (opcodeOf i) with mem := t.mem, slots := t.slots } ∧
      (∀ a, ¬ within a o.dst.toNat o.len.toNat → memByte t.mem a = memByte s.mem a) ∧
      (∀ k, k ≠ o.ks → k ≠ o.kt → t.slotAt k = s.slotAt k) ∧
      (∀ k, (t.slotAt k).trueKey = (s.slotAt k).trueKey ∧ (t.slotAt k).alg = (s.slotAt k).alg ∧
        (t.slotAt k).icodeSet = (s.slotAt k).icodeSet ∧ (t.slotAt k).sched = (s.slotAt k).sched ∧
        (t.slotAt k).icode = (s.slotAt k).icode ∧ (t.slotAt k).rkicode = (s.slotAt k).rkicode) ∧
      (t.slotAt o.ks).masked = true ∧ (t.slotAt o.kt).masked = true ∧
      (t.slotAt o.ks).mask = drawn s (xtsBlockDraws o s) 32 ∧ (t.slotAt o.kt).mask = drawn s (xtsBlockDraws o s + 3) 32 ∧
      (t.slotAt o.ks).res.toNat + o.len.toNat / sizeOfSlotBlock s o.ks = (s.slotAt o.ks).res.toNat ∧
      (t.slotAt o.kt).res.toNat + tweakCost s o.kt = (s.slotAt o.kt).res.toNat

/-- The output of XTS.ENC and of XTS.DEC, in place or between buffers that do not overlap (R192 to R196, R200, R201).
XTS.ENC: block n at `dst` is the block n at `src` xor tw(n), encrypted under the data key's true value by its classical
cipher, xor tw(n). XTS.DEC, under the same tweaks: block n at `dst` is the block of which that is the block n at `src`.
Also where only the exit re-masking fails, by R203's last sentences (the model's reading: log 10). -/
def Obligations.XtsEncOutput : Prop :=
  ∀ (o : XtsOperands) (s t : State), s.Inv →
    readable s o.iv.toNat o.ivlen.toNat → readable s o.src.toNat o.len.toNat → answersOk s (xtsBlockDraws o s) →
    o.src = o.dst ∨ o.src.toNat + o.len.toNat ≤ o.dst.toNat ∨ o.dst.toNat + o.len.toNat ≤ o.src.toNat →
    let bd := sizeOfSlotBlock s o.ks
    let t0 := classicalTweak s.cfg.compat (s.slotAt o.kt) (ofBytes 128 (bytesAt s o.iv.toNat o.ivlen.toNat))
    let tw := tweakOfBlock bd t0
    let enc := classicalEncrypt s.cfg.compat (s.slotAt o.ks)
    (refusalOf (.xtsEnc o.ks o.kt o.src o.dst o.len o.iv o.ivlen) s = none →
      exec (.xtsEnc o.ks o.kt o.src o.dst o.len o.iv o.ivlen) s = .next t →
      ∀ n, n < o.len.toNat / bd →
        memRead t.mem (o.dst.toNat + bd * n) bd =
          .ok (toBytes bd (enc (ofBytes 128 (bytesAt s (o.src.toNat + bd * n) bd) ^^^ tw n) ^^^ tw n))) ∧
    (refusalOf (.xtsDec o.ks o.kt o.src o.dst o.len o.iv o.ivlen) s = none →
      exec (.xtsDec o.ks o.kt o.src o.dst o.len o.iv o.ivlen) s = .next t →
      ∀ n, n < o.len.toNat / bd →
        ∃ p, memRead t.mem (o.dst.toNat + bd * n) bd = .ok p ∧
          toBytes bd (enc (ofBytes 128 p ^^^ tw n) ^^^ tw n) = bytesAt s (o.src.toNat + bd * n) bd)

/-- The round trip: XTS.DEC with the same slots, IV and `ivlen` on the output of XTS.ENC restores the input, provided
both succeed, for every legal length and IV length (R204 item 1). -/
def Obligations.XtsRoundTrip : Prop :=
  ∀ (ks kt : SlotIx) (src mid dst : Addr) (len : Word) (iv : Addr) (ivlen : Byte) (s t u : State), s.Inv →
    (src = mid ∨ src.toNat + len.toNat ≤ mid.toNat ∨ mid.toNat + len.toNat ≤ src.toNat) →
    (mid = dst ∨ mid.toNat + len.toNat ≤ dst.toNat ∨ dst.toNat + len.toNat ≤ mid.toNat) →
    (∀ a, within a iv.toNat ivlen.toNat → ¬ within a mid.toNat len.toNat) →
    exec (.xtsEnc ks kt src mid len iv ivlen) s = .next t → t.code = 0 →
    exec (.xtsDec ks kt mid dst len iv ivlen) t = .next u → u.code = 0 →
    memRead u.mem dst.toNat len.toNat = memRead s.mem src.toNat len.toNat

/-- A failed draw inside XTS (R202, R203, R220): `E_ENTROPY` with the slot of `ks` (log 21), nothing outside `dst`
written, true keys, unmasked round keys, codes and flags but MASKED as before, and `remask(ks)` and then `remask(kt)`
performed, each as far as its own requests are answered. If the request j of the tweak derivation or the data blocks
failed, both counters are as before. If those requests were all answered and only the exit re-masking failed, the steps
before it are complete: both counters are decremented and no byte is left unspecified (log 10). -/
def Obligations.XtsLateFailure : Prop :=
  ∀ (o : XtsOperands) (s : State) (i : Instr),
    i = .xtsEnc o.ks o.kt o.src o.dst o.len o.iv o.ivlen ∨ i = .xtsDec o.ks o.kt o.src o.dst o.len o.iv o.ivlen →
    s.Inv → refusalOf i s = none → readable s o.iv.toNat o.ivlen.toNat → readable s o.src.toNat o.len.toNat →
    let b := xtsBlockDraws o s
    (∀ j, j < b → answersOk s j → answerAt s j = none →
      ∃ t, exec i s = .next t ∧ XtsFailed (opcodeOf i) o s t (j + 1) ∧ ∀ k, (t.slotAt k).res = (s.slotAt k).res) ∧
    (answersOk s b → (remaskAnswered s b && remaskAnswered s (tweakRemaskAt s b)) = false →
      ∃ t, exec i s = .next t ∧ XtsFailed (opcodeOf i) o s t b ∧ t.freeBytes = s.freeBytes ∧
        (t.slotAt o.ks).res.toNat + o.len.toNat / sizeOfSlotBlock s o.ks = (s.slotAt o.ks).res.toNat ∧
        (t.slotAt o.kt).res.toNat + tweakCost s o.kt = (s.slotAt o.kt).res.toNat)

/-! ## What the host cannot see -/

/-- Masking invariance and secrecy of masks: from two states that meet the invariants and differ only in masks, in values
stored under masks and in the bytes of the draws to come, every action gives states that again differ only so; `MEM`, the
status registers and every answer to the host are the same (R33, R112). -/
def Obligations.MasksAndDrawsNeverReachTheHost : Prop :=
  ∀ (a : HostAction) (s s' t : State), s.Inv → s'.Inv → Alike s s' → perform a s = .next t →
    ∃ t', perform a s' = .next t' ∧ Alike t t'
end

