-- ==== Sys2Proof/Laws/State.lean ====
section
/-! SUPPORT. One lemma per field for every update of `State` and of `Slot`: what each named update leaves in each field. -/

namespace Sys2Proof.Machine

/-! The memory update. -/

@[simp] theorem State.store_cfg (s : State) (a : Nat) (bs : List Byte) : (s.store a bs).cfg = s.cfg := rfl
@[simp] theorem State.store_slots (s : State) (a : Nat) (bs : List Byte) : (s.store a bs).slots = s.slots := rfl
@[simp] theorem State.store_tablesValid (s : State) (a : Nat) (bs : List Byte) :
    (s.store a bs).tablesValid = s.tablesValid := rfl
@[simp] theorem State.store_code (s : State) (a : Nat) (bs : List Byte) : (s.store a bs).code = s.code := rfl
@[simp] theorem State.store_errSub (s : State) (a : Nat) (bs : List Byte) : (s.store a bs).errSub = s.errSub := rfl
@[simp] theorem State.store_errOp (s : State) (a : Nat) (bs : List Byte) : (s.store a bs).errOp = s.errOp := rfl
@[simp] theorem State.store_errSlot (s : State) (a : Nat) (bs : List Byte) : (s.store a bs).errSlot = s.errSlot := rfl
@[simp] theorem State.store_faults (s : State) (a : Nat) (bs : List Byte) : (s.store a bs).faults = s.faults := rfl
@[simp] theorem State.store_halted (s : State) (a : Nat) (bs : List Byte) : (s.store a bs).halted = s.halted := rfl
@[simp] theorem State.store_mem (s : State) (a : Nat) (bs : List Byte) :
    (s.store a bs).mem = memWrite s.mem a bs := rfl
@[simp] theorem State.store_port (s : State) (a : Nat) (bs : List Byte) : (s.store a bs).port = s.port := rfl
@[simp] theorem State.store_reply (s : State) (a : Nat) (bs : List Byte) : (s.store a bs).reply = s.reply := rfl
@[simp] theorem State.store_entropy (s : State) (a : Nat) (bs : List Byte) : (s.store a bs).entropy = s.entropy := rfl
@[simp] theorem State.store_fills (s : State) (a : Nat) (bs : List Byte) : (s.store a bs).fills = s.fills := rfl
@[simp] theorem State.store_freeBytes (s : State) (a : Nat) (bs : List Byte) :
    (s.store a bs).freeBytes = s.freeBytes := rfl

/-! Leaving n bytes unspecified. -/

@[simp] theorem State.scramble_cfg (s : State) (a n : Nat) : (s.scramble a n).cfg = s.cfg := rfl
@[simp] theorem State.scramble_slots (s : State) (a n : Nat) : (s.scramble a n).slots = s.slots := rfl
@[simp] theorem State.scramble_tablesValid (s : State) (a n : Nat) :
    (s.scramble a n).tablesValid = s.tablesValid := rfl
@[simp] theorem State.scramble_code (s : State) (a n : Nat) : (s.scramble a n).code = s.code := rfl
@[simp] theorem State.scramble_errSub (s : State) (a n : Nat) : (s.scramble a n).errSub = s.errSub := rfl
@[simp] theorem State.scramble_errOp (s : State) (a n : Nat) : (s.scramble a n).errOp = s.errOp := rfl
@[simp] theorem State.scramble_errSlot (s : State) (a n : Nat) : (s.scramble a n).errSlot = s.errSlot := rfl
@[simp] theorem State.scramble_faults (s : State) (a n : Nat) : (s.scramble a n).faults = s.faults := rfl
@[simp] theorem State.scramble_halted (s : State) (a n : Nat) : (s.scramble a n).halted = s.halted := rfl
@[simp] theorem State.scramble_mem (s : State) (a n : Nat) :
    (s.scramble a n).mem = memWrite s.mem a ((List.range n).map fun j => Config.freeByte (s.freeBytes + j)) := rfl
@[simp] theorem State.scramble_port (s : State) (a n : Nat) : (s.scramble a n).port = s.port := rfl
@[simp] theorem State.scramble_reply (s : State) (a n : Nat) : (s.scramble a n).reply = s.reply := rfl
@[simp] theorem State.scramble_entropy (s : State) (a n : Nat) : (s.scramble a n).entropy = s.entropy := rfl
@[simp] theorem State.scramble_fills (s : State) (a n : Nat) : (s.scramble a n).fills = s.fills := rfl
@[simp] theorem State.scramble_freeBytes (s : State) (a n : Nat) : (s.scramble a n).freeBytes = s.freeBytes + n := rfl

/-! The slot update. -/

@[simp] theorem State.setSlot_cfg (s : State) (k : SlotIx) (sl : Slot) : (s.setSlot k sl).cfg = s.cfg := rfl
@[simp] theorem State.setSlot_slots (s : State) (k : SlotIx) (sl : Slot) :
    (s.setSlot k sl).slots = s.slots.set k.toNat sl := rfl
@[simp] theorem State.setSlot_tablesValid (s : State) (k : SlotIx) (sl : Slot) :
    (s.setSlot k sl).tablesValid = s.tablesValid := rfl
@[simp] theorem State.setSlot_code (s : State) (k : SlotIx) (sl : Slot) : (s.setSlot k sl).code = s.code := rfl
@[simp] theorem State.setSlot_errSub (s : State) (k : SlotIx) (sl : Slot) : (s.setSlot k sl).errSub = s.errSub := rfl
@[simp] theorem State.setSlot_errOp (s : State) (k : SlotIx) (sl : Slot) : (s.setSlot k sl).errOp = s.errOp := rfl
@[simp] theorem State.setSlot_errSlot (s : State) (k : SlotIx) (sl : Slot) :
    (s.setSlot k sl).errSlot = s.errSlot := rfl
@[simp] theorem State.setSlot_faults (s : State) (k : SlotIx) (sl : Slot) : (s.setSlot k sl).faults = s.faults := rfl
@[simp] theorem State.setSlot_halted (s : State) (k : SlotIx) (sl : Slot) : (s.setSlot k sl).halted = s.halted := rfl
@[simp] theorem State.setSlot_mem (s : State) (k : SlotIx) (sl : Slot) : (s.setSlot k sl).mem = s.mem := rfl
@[simp] theorem State.setSlot_port (s : State) (k : SlotIx) (sl : Slot) : (s.setSlot k sl).port = s.port := rfl
@[simp] theorem State.setSlot_reply (s : State) (k : SlotIx) (sl : Slot) : (s.setSlot k sl).reply = s.reply := rfl
@[simp] theorem State.setSlot_entropy (s : State) (k : SlotIx) (sl : Slot) :
    (s.setSlot k sl).entropy = s.entropy := rfl
@[simp] theorem State.setSlot_fills (s : State) (k : SlotIx) (sl : Slot) : (s.setSlot k sl).fills = s.fills := rfl
@[simp] theorem State.setSlot_freeBytes (s : State) (k : SlotIx) (sl : Slot) :
    (s.setSlot k sl).freeBytes = s.freeBytes := rfl

/-! Completion with success. -/

@[simp] theorem State.complete_none_cfg (s : State) (op : Byte) : (s.complete op none).cfg = s.cfg := rfl
@[simp] theorem State.complete_none_slots (s : State) (op : Byte) : (s.complete op none).slots = s.slots := rfl
@[simp] theorem State.complete_none_tablesValid (s : State) (op : Byte) :
    (s.complete op none).tablesValid = s.tablesValid := rfl
@[simp] theorem State.complete_none_code (s : State) (op : Byte) : (s.complete op none).code = 0 := rfl
@[simp] theorem State.complete_none_errSub (s : State) (op : Byte) : (s.complete op none).errSub = 0 := rfl
@[simp] theorem State.complete_none_errOp (s : State) (op : Byte) : (s.complete op none).errOp = op := rfl
@[simp] theorem State.complete_none_errSlot (s : State) (op : Byte) : (s.complete op none).errSlot = 0 := rfl
@[simp] theorem State.complete_none_faults (s : State) (op : Byte) : (s.complete op none).faults = s.faults := rfl
@[simp] theorem State.complete_none_halted (s : State) (op : Byte) : (s.complete op none).halted = s.halted := rfl
@[simp] theorem State.complete_none_mem (s : State) (op : Byte) : (s.complete op none).mem = s.mem := rfl
@[simp] theorem State.complete_none_port (s : State) (op : Byte) : (s.complete op none).port = s.port := rfl
@[simp] theorem State.complete_none_reply (s : State) (op : Byte) : (s.complete op none).reply = s.reply := rfl
@[simp] theorem State.complete_none_entropy (s : State) (op : Byte) : (s.complete op none).entropy = s.entropy := rfl
@[simp] theorem State.complete_none_fills (s : State) (op : Byte) : (s.complete op none).fills = s.fills := rfl
@[simp] theorem State.complete_none_freeBytes (s : State) (op : Byte) :
    (s.complete op none).freeBytes = s.freeBytes := rfl

/-! Completion with an error. -/

@[simp] theorem State.complete_some_cfg (s : State) (op : Byte) (e : CoreError) :
    (s.complete op (some e)).cfg = s.cfg := rfl
@[simp] theorem State.complete_some_slots (s : State) (op : Byte) (e : CoreError) :
    (s.complete op (some e)).slots = s.slots := rfl
@[simp] theorem State.complete_some_tablesValid (s : State) (op : Byte) (e : CoreError) :
    (s.complete op (some e)).tablesValid = s.tablesValid := rfl
@[simp] theorem State.complete_some_code (s : State) (op : Byte) (e : CoreError) :
    (s.complete op (some e)).code = BitVec.ofNat 8 e.code := rfl
@[simp] theorem State.complete_some_errSub (s : State) (op : Byte) (e : CoreError) :
    (s.complete op (some e)).errSub = BitVec.ofNat 8 e.sub := rfl
@[simp] theorem State.complete_some_errOp (s : State) (op : Byte) (e : CoreError) :
    (s.complete op (some e)).errOp = op := rfl
@[simp] theorem State.complete_some_errSlot (s : State) (op : Byte) (e : CoreError) :
    (s.complete op (some e)).errSlot = e.slot := rfl
@[simp] theorem State.complete_some_faults (s : State) (op : Byte) (e : CoreError) :
    (s.complete op (some e)).faults = s.faults ||| e.faultBit := rfl
@[simp] theorem State.complete_some_halted (s : State) (op : Byte) (e : CoreError) :
    (s.complete op (some e)).halted = s.halted := rfl
@[simp] theorem State.complete_some_mem (s : State) (op : Byte) (e : CoreError) :
    (s.complete op (some e)).mem = s.mem := rfl
@[simp] theorem State.complete_some_port (s : State) (op : Byte) (e : CoreError) :
    (s.complete op (some e)).port = s.port := rfl
@[simp] theorem State.complete_some_reply (s : State) (op : Byte) (e : CoreError) :
    (s.complete op (some e)).reply = s.reply := rfl
@[simp] theorem State.complete_some_entropy (s : State) (op : Byte) (e : CoreError) :
    (s.complete op (some e)).entropy = s.entropy := rfl
@[simp] theorem State.complete_some_fills (s : State) (op : Byte) (e : CoreError) :
    (s.complete op (some e)).fills = s.fills := rfl
@[simp] theorem State.complete_some_freeBytes (s : State) (op : Byte) (e : CoreError) :
    (s.complete op (some e)).freeBytes = s.freeBytes := rfl

/-! The halt. -/

@[simp] theorem State.haltOn_cfg (s : State) (e : CoreError) :
    (s.haltOn e).cfg = s.cfg := by unfold State.haltOn; split <;> simp_all
@[simp] theorem State.haltOn_slots (s : State) (e : CoreError) :
    (s.haltOn e).slots = s.slots := by unfold State.haltOn; split <;> simp_all
@[simp] theorem State.haltOn_tablesValid (s : State) (e : CoreError) :
    (s.haltOn e).tablesValid = s.tablesValid := by unfold State.haltOn; split <;> simp_all
@[simp] theorem State.haltOn_code (s : State) (e : CoreError) :
    (s.haltOn e).code = s.code := by unfold State.haltOn; split <;> simp_all
@[simp] theorem State.haltOn_errSub (s : State) (e : CoreError) :
    (s.haltOn e).errSub = s.errSub := by unfold State.haltOn; split <;> simp_all
@[simp] theorem State.haltOn_errOp (s : State) (e : CoreError) :
    (s.haltOn e).errOp = s.errOp := by unfold State.haltOn; split <;> simp_all
@[simp] theorem State.haltOn_errSlot (s : State) (e : CoreError) :
    (s.haltOn e).errSlot = s.errSlot := by unfold State.haltOn; split <;> simp_all
@[simp] theorem State.haltOn_faults (s : State) (e : CoreError) :
    (s.haltOn e).faults = s.faults := by unfold State.haltOn; split <;> simp_all
@[simp] theorem State.haltOn_halted (s : State) (e : CoreError) :
    (s.haltOn e).halted = (s.halted || decide (e = .noTables)) := by unfold State.haltOn; split <;> simp_all
@[simp] theorem State.haltOn_mem (s : State) (e : CoreError) :
    (s.haltOn e).mem = s.mem := by unfold State.haltOn; split <;> simp_all
@[simp] theorem State.haltOn_port (s : State) (e : CoreError) :
    (s.haltOn e).port = s.port := by unfold State.haltOn; split <;> simp_all
@[simp] theorem State.haltOn_reply (s : State) (e : CoreError) :
    (s.haltOn e).reply = s.reply := by unfold State.haltOn; split <;> simp_all
@[simp] theorem State.haltOn_entropy (s : State) (e : CoreError) :
    (s.haltOn e).entropy = s.entropy := by unfold State.haltOn; split <;> simp_all
@[simp] theorem State.haltOn_fills (s : State) (e : CoreError) :
    (s.haltOn e).fills = s.fills := by unfold State.haltOn; split <;> simp_all
@[simp] theorem State.haltOn_freeBytes (s : State) (e : CoreError) :
    (s.haltOn e).freeBytes = s.freeBytes := by unfold State.haltOn; split <;> simp_all

/-! The completion in the words of the statements. -/

@[simp] theorem State.endedWith_cfg (s : State) (op : Byte) (c b : Nat) (k : SlotIx) :
    (s.endedWith op c b k).cfg = s.cfg := rfl
@[simp] theorem State.endedWith_slots (s : State) (op : Byte) (c b : Nat) (k : SlotIx) :
    (s.endedWith op c b k).slots = s.slots := rfl
@[simp] theorem State.endedWith_tablesValid (s : State) (op : Byte) (c b : Nat) (k : SlotIx) :
    (s.endedWith op c b k).tablesValid = s.tablesValid := rfl
@[simp] theorem State.endedWith_code (s : State) (op : Byte) (c b : Nat) (k : SlotIx) :
    (s.endedWith op c b k).code = BitVec.ofNat 8 c := rfl
@[simp] theorem State.endedWith_errSub (s : State) (op : Byte) (c b : Nat) (k : SlotIx) :
    (s.endedWith op c b k).errSub = BitVec.ofNat 8 b := rfl
@[simp] theorem State.endedWith_errOp (s : State) (op : Byte) (c b : Nat) (k : SlotIx) :
    (s.endedWith op c b k).errOp = op := rfl
@[simp] theorem State.endedWith_errSlot (s : State) (op : Byte) (c b : Nat) (k : SlotIx) :
    (s.endedWith op c b k).errSlot = k := rfl
@[simp] theorem State.endedWith_faults (s : State) (op : Byte) (c b : Nat) (k : SlotIx) :
    (s.endedWith op c b k).faults = if c = 0 then s.faults else s.faults ||| (1#32 <<< c) := rfl
@[simp] theorem State.endedWith_halted (s : State) (op : Byte) (c b : Nat) (k : SlotIx) :
    (s.endedWith op c b k).halted = s.halted := rfl
@[simp] theorem State.endedWith_mem (s : State) (op : Byte) (c b : Nat) (k : SlotIx) :
    (s.endedWith op c b k).mem = s.mem := rfl
@[simp] theorem State.endedWith_port (s : State) (op : Byte) (c b : Nat) (k : SlotIx) :
    (s.endedWith op c b k).port = s.port := rfl
@[simp] theorem State.endedWith_reply (s : State) (op : Byte) (c b : Nat) (k : SlotIx) :
    (s.endedWith op c b k).reply = s.reply := rfl
@[simp] theorem State.endedWith_entropy (s : State) (op : Byte) (c b : Nat) (k : SlotIx) :
    (s.endedWith op c b k).entropy = s.entropy := rfl
@[simp] theorem State.endedWith_fills (s : State) (op : Byte) (c b : Nat) (k : SlotIx) :
    (s.endedWith op c b k).fills = s.fills := rfl
@[simp] theorem State.endedWith_freeBytes (s : State) (op : Byte) (c b : Nat) (k : SlotIx) :
    (s.endedWith op c b k).freeBytes = s.freeBytes := rfl

/-! The successful completion in the words of the statements. -/

@[simp] theorem State.ended_cfg (s : State) (op : Byte) : (s.ended op).cfg = s.cfg := rfl
@[simp] theorem State.ended_slots (s : State) (op : Byte) : (s.ended op).slots = s.slots := rfl
@[simp] theorem State.ended_tablesValid (s : State) (op : Byte) : (s.ended op).tablesValid = s.tablesValid := rfl
@[simp] theorem State.ended_code (s : State) (op : Byte) : (s.ended op).code = 0 := rfl
@[simp] theorem State.ended_errSub (s : State) (op : Byte) : (s.ended op).errSub = 0 := rfl
@[simp] theorem State.ended_errOp (s : State) (op : Byte) : (s.ended op).errOp = op := rfl
@[simp] theorem State.ended_errSlot (s : State) (op : Byte) : (s.ended op).errSlot = 0 := rfl
@[simp] theorem State.ended_faults (s : State) (op : Byte) : (s.ended op).faults = s.faults := rfl
@[simp] theorem State.ended_halted (s : State) (op : Byte) : (s.ended op).halted = s.halted := rfl
@[simp] theorem State.ended_mem (s : State) (op : Byte) : (s.ended op).mem = s.mem := rfl
@[simp] theorem State.ended_port (s : State) (op : Byte) : (s.ended op).port = s.port := rfl
@[simp] theorem State.ended_reply (s : State) (op : Byte) : (s.ended op).reply = s.reply := rfl
@[simp] theorem State.ended_entropy (s : State) (op : Byte) : (s.ended op).entropy = s.entropy := rfl
@[simp] theorem State.ended_fills (s : State) (op : Byte) : (s.ended op).fills = s.fills := rfl
@[simp] theorem State.ended_freeBytes (s : State) (op : Byte) : (s.ended op).freeBytes = s.freeBytes := rfl

/-! Requests to the entropy source. -/

@[simp] theorem afterAnswers_cfg (s : State) (n : Nat) : (afterAnswers s n).cfg = s.cfg := rfl
@[simp] theorem afterAnswers_slots (s : State) (n : Nat) : (afterAnswers s n).slots = s.slots := rfl
@[simp] theorem afterAnswers_tablesValid (s : State) (n : Nat) : (afterAnswers s n).tablesValid = s.tablesValid := rfl
@[simp] theorem afterAnswers_code (s : State) (n : Nat) : (afterAnswers s n).code = s.code := rfl
@[simp] theorem afterAnswers_errSub (s : State) (n : Nat) : (afterAnswers s n).errSub = s.errSub := rfl
@[simp] theorem afterAnswers_errOp (s : State) (n : Nat) : (afterAnswers s n).errOp = s.errOp := rfl
@[simp] theorem afterAnswers_errSlot (s : State) (n : Nat) : (afterAnswers s n).errSlot = s.errSlot := rfl
@[simp] theorem afterAnswers_faults (s : State) (n : Nat) : (afterAnswers s n).faults = s.faults := rfl
@[simp] theorem afterAnswers_halted (s : State) (n : Nat) : (afterAnswers s n).halted = s.halted := rfl
@[simp] theorem afterAnswers_mem (s : State) (n : Nat) : (afterAnswers s n).mem = s.mem := rfl
@[simp] theorem afterAnswers_port (s : State) (n : Nat) : (afterAnswers s n).port = s.port := rfl
@[simp] theorem afterAnswers_reply (s : State) (n : Nat) : (afterAnswers s n).reply = s.reply := rfl
@[simp] theorem afterAnswers_entropy (s : State) (n : Nat) : (afterAnswers s n).entropy = s.entropy.drop n := rfl
@[simp] theorem afterAnswers_fills (s : State) (n : Nat) : (afterAnswers s n).fills = s.fills + n := rfl
@[simp] theorem afterAnswers_freeBytes (s : State) (n : Nat) : (afterAnswers s n).freeBytes = s.freeBytes := rfl

/-! A descriptor presented next. -/

@[simp] theorem State.withFetchWord_cfg (s : State) (n w : Nat) : (s.withFetchWord n w).cfg = s.cfg := rfl
@[simp] theorem State.withFetchWord_slots (s : State) (n w : Nat) : (s.withFetchWord n w).slots = s.slots := rfl
@[simp] theorem State.withFetchWord_tablesValid (s : State) (n w : Nat) :
    (s.withFetchWord n w).tablesValid = s.tablesValid := rfl
@[simp] theorem State.withFetchWord_code (s : State) (n w : Nat) : (s.withFetchWord n w).code = s.code := rfl
@[simp] theorem State.withFetchWord_errSub (s : State) (n w : Nat) : (s.withFetchWord n w).errSub = s.errSub := rfl
@[simp] theorem State.withFetchWord_errOp (s : State) (n w : Nat) : (s.withFetchWord n w).errOp = s.errOp := rfl
@[simp] theorem State.withFetchWord_errSlot (s : State) (n w : Nat) : (s.withFetchWord n w).errSlot = s.errSlot := rfl
@[simp] theorem State.withFetchWord_faults (s : State) (n w : Nat) : (s.withFetchWord n w).faults = s.faults := rfl
@[simp] theorem State.withFetchWord_halted (s : State) (n w : Nat) : (s.withFetchWord n w).halted = s.halted := rfl
@[simp] theorem State.withFetchWord_mem (s : State) (n w : Nat) : (s.withFetchWord n w).mem = s.mem := rfl
@[simp] theorem State.withFetchWord_port (s : State) (n w : Nat) :
    (s.withFetchWord n w).port = .command (BitVec.ofNat 160 (w % 2 ^ n)) :: s.port := rfl
@[simp] theorem State.withFetchWord_reply (s : State) (n w : Nat) : (s.withFetchWord n w).reply = s.reply := rfl
@[simp] theorem State.withFetchWord_entropy (s : State) (n w : Nat) : (s.withFetchWord n w).entropy = s.entropy := rfl
@[simp] theorem State.withFetchWord_fills (s : State) (n w : Nat) : (s.withFetchWord n w).fills = s.fills := rfl
@[simp] theorem State.withFetchWord_freeBytes (s : State) (n w : Nat) :
    (s.withFetchWord n w).freeBytes = s.freeBytes := rfl

/-! Re-masking the key. -/

@[simp] theorem Slot.remaskKey_alg (sl : Slot) (m : KeyBytes) : (sl.remaskKey m).alg = sl.alg := rfl
@[simp] theorem Slot.remaskKey_raw (sl : Slot) (m : KeyBytes) :
    (sl.remaskKey m).raw = if sl.masked then maskOff sl.alg (maskOn sl.alg sl.raw m) sl.mask else maskOn sl.alg sl.raw m := rfl
@[simp] theorem Slot.remaskKey_mask (sl : Slot) (m : KeyBytes) : (sl.remaskKey m).mask = m := rfl
@[simp] theorem Slot.remaskKey_masked (sl : Slot) (m : KeyBytes) : (sl.remaskKey m).masked = true := rfl
@[simp] theorem Slot.remaskKey_icodeSet (sl : Slot) (m : KeyBytes) : (sl.remaskKey m).icodeSet = sl.icodeSet := rfl
@[simp] theorem Slot.remaskKey_sched (sl : Slot) (m : KeyBytes) : (sl.remaskKey m).sched = sl.sched := rfl
@[simp] theorem Slot.remaskKey_icode (sl : Slot) (m : KeyBytes) : (sl.remaskKey m).icode = sl.icode := rfl
@[simp] theorem Slot.remaskKey_res (sl : Slot) (m : KeyBytes) : (sl.remaskKey m).res = sl.res := rfl
@[simp] theorem Slot.remaskKey_ek (sl : Slot) (m : KeyBytes) : (sl.remaskKey m).ek = sl.ek := rfl
@[simp] theorem Slot.remaskKey_em (sl : Slot) (m : KeyBytes) : (sl.remaskKey m).em = sl.em := rfl
@[simp] theorem Slot.remaskKey_dk (sl : Slot) (m : KeyBytes) : (sl.remaskKey m).dk = sl.dk := rfl
@[simp] theorem Slot.remaskKey_dm (sl : Slot) (m : KeyBytes) : (sl.remaskKey m).dm = sl.dm := rfl
@[simp] theorem Slot.remaskKey_fk (sl : Slot) (m : KeyBytes) : (sl.remaskKey m).fk = sl.fk := rfl
@[simp] theorem Slot.remaskKey_fm (sl : Slot) (m : KeyBytes) : (sl.remaskKey m).fm = sl.fm := rfl
@[simp] theorem Slot.remaskKey_ik (sl : Slot) (m : KeyBytes) : (sl.remaskKey m).ik = sl.ik := rfl
@[simp] theorem Slot.remaskKey_im (sl : Slot) (m : KeyBytes) : (sl.remaskKey m).im = sl.im := rfl
@[simp] theorem Slot.remaskKey_rkicode (sl : Slot) (m : KeyBytes) : (sl.remaskKey m).rkicode = sl.rkicode := rfl

/-! Re-masking the Kuznechik round keys. -/

@[simp] theorem Slot.remaskKz_alg (sl : Slot) (d1 d2 : BitVec 1280) : (sl.remaskKz d1 d2).alg = sl.alg := rfl
@[simp] theorem Slot.remaskKz_raw (sl : Slot) (d1 d2 : BitVec 1280) : (sl.remaskKz d1 d2).raw = sl.raw := rfl
@[simp] theorem Slot.remaskKz_mask (sl : Slot) (d1 d2 : BitVec 1280) : (sl.remaskKz d1 d2).mask = sl.mask := rfl
@[simp] theorem Slot.remaskKz_masked (sl : Slot) (d1 d2 : BitVec 1280) : (sl.remaskKz d1 d2).masked = sl.masked := rfl
@[simp] theorem Slot.remaskKz_icodeSet (sl : Slot) (d1 d2 : BitVec 1280) :
    (sl.remaskKz d1 d2).icodeSet = sl.icodeSet := rfl
@[simp] theorem Slot.remaskKz_sched (sl : Slot) (d1 d2 : BitVec 1280) : (sl.remaskKz d1 d2).sched = sl.sched := rfl
@[simp] theorem Slot.remaskKz_icode (sl : Slot) (d1 d2 : BitVec 1280) : (sl.remaskKz d1 d2).icode = sl.icode := rfl
@[simp] theorem Slot.remaskKz_res (sl : Slot) (d1 d2 : BitVec 1280) : (sl.remaskKz d1 d2).res = sl.res := rfl
@[simp] theorem Slot.remaskKz_ek (sl : Slot) (d1 d2 : BitVec 1280) :
    (sl.remaskKz d1 d2).ek = kzRemaskKeys sl.ek sl.em (drawBlocks d1) := rfl
@[simp] theorem Slot.remaskKz_em (sl : Slot) (d1 d2 : BitVec 1280) : (sl.remaskKz d1 d2).em = drawBlocks d1 := rfl
@[simp] theorem Slot.remaskKz_dk (sl : Slot) (d1 d2 : BitVec 1280) :
    (sl.remaskKz d1 d2).dk = kzRemaskKeys sl.dk sl.dm (drawBlocks d2) := rfl
@[simp] theorem Slot.remaskKz_dm (sl : Slot) (d1 d2 : BitVec 1280) : (sl.remaskKz d1 d2).dm = drawBlocks d2 := rfl
@[simp] theorem Slot.remaskKz_fk (sl : Slot) (d1 d2 : BitVec 1280) : (sl.remaskKz d1 d2).fk = sl.fk := rfl
@[simp] theorem Slot.remaskKz_fm (sl : Slot) (d1 d2 : BitVec 1280) : (sl.remaskKz d1 d2).fm = sl.fm := rfl
@[simp] theorem Slot.remaskKz_ik (sl : Slot) (d1 d2 : BitVec 1280) : (sl.remaskKz d1 d2).ik = sl.ik := rfl
@[simp] theorem Slot.remaskKz_im (sl : Slot) (d1 d2 : BitVec 1280) : (sl.remaskKz d1 d2).im = sl.im := rfl
@[simp] theorem Slot.remaskKz_rkicode (sl : Slot) (d1 d2 : BitVec 1280) :
    (sl.remaskKz d1 d2).rkicode = sl.rkicode := rfl

/-! Re-masking the Magma round keys. -/

@[simp] theorem Slot.remaskMg_alg (sl : Slot) (d1 d2 : KeyBytes) : (sl.remaskMg d1 d2).alg = sl.alg := rfl
@[simp] theorem Slot.remaskMg_raw (sl : Slot) (d1 d2 : KeyBytes) : (sl.remaskMg d1 d2).raw = sl.raw := rfl
@[simp] theorem Slot.remaskMg_mask (sl : Slot) (d1 d2 : KeyBytes) : (sl.remaskMg d1 d2).mask = sl.mask := rfl
@[simp] theorem Slot.remaskMg_masked (sl : Slot) (d1 d2 : KeyBytes) : (sl.remaskMg d1 d2).masked = sl.masked := rfl
@[simp] theorem Slot.remaskMg_icodeSet (sl : Slot) (d1 d2 : KeyBytes) :
    (sl.remaskMg d1 d2).icodeSet = sl.icodeSet := rfl
@[simp] theorem Slot.remaskMg_sched (sl : Slot) (d1 d2 : KeyBytes) : (sl.remaskMg d1 d2).sched = sl.sched := rfl
@[simp] theorem Slot.remaskMg_icode (sl : Slot) (d1 d2 : KeyBytes) : (sl.remaskMg d1 d2).icode = sl.icode := rfl
@[simp] theorem Slot.remaskMg_res (sl : Slot) (d1 d2 : KeyBytes) : (sl.remaskMg d1 d2).res = sl.res := rfl
@[simp] theorem Slot.remaskMg_ek (sl : Slot) (d1 d2 : KeyBytes) : (sl.remaskMg d1 d2).ek = sl.ek := rfl
@[simp] theorem Slot.remaskMg_em (sl : Slot) (d1 d2 : KeyBytes) : (sl.remaskMg d1 d2).em = sl.em := rfl
@[simp] theorem Slot.remaskMg_dk (sl : Slot) (d1 d2 : KeyBytes) : (sl.remaskMg d1 d2).dk = sl.dk := rfl
@[simp] theorem Slot.remaskMg_dm (sl : Slot) (d1 d2 : KeyBytes) : (sl.remaskMg d1 d2).dm = sl.dm := rfl
@[simp] theorem Slot.remaskMg_fk (sl : Slot) (d1 d2 : KeyBytes) :
    (sl.remaskMg d1 d2).fk = mgRemaskKeys sl.fk sl.fm (drawWords d1) := rfl
@[simp] theorem Slot.remaskMg_fm (sl : Slot) (d1 d2 : KeyBytes) : (sl.remaskMg d1 d2).fm = drawWords d1 := rfl
@[simp] theorem Slot.remaskMg_ik (sl : Slot) (d1 d2 : KeyBytes) :
    (sl.remaskMg d1 d2).ik = mgRemaskKeys sl.ik sl.im (drawWords d2) := rfl
@[simp] theorem Slot.remaskMg_im (sl : Slot) (d1 d2 : KeyBytes) : (sl.remaskMg d1 d2).im = drawWords d2 := rfl
@[simp] theorem Slot.remaskMg_rkicode (sl : Slot) (d1 d2 : KeyBytes) : (sl.remaskMg d1 d2).rkicode = sl.rkicode := rfl

/-! Overwriting the Kuznechik arrays. -/

@[simp] theorem Slot.overwriteKz_alg (sl : Slot) (d1 d2 d3 d4 : BitVec 1280) :
    (sl.overwriteKz d1 d2 d3 d4).alg = sl.alg := rfl
@[simp] theorem Slot.overwriteKz_raw (sl : Slot) (d1 d2 d3 d4 : BitVec 1280) :
    (sl.overwriteKz d1 d2 d3 d4).raw = sl.raw := rfl
@[simp] theorem Slot.overwriteKz_mask (sl : Slot) (d1 d2 d3 d4 : BitVec 1280) :
    (sl.overwriteKz d1 d2 d3 d4).mask = sl.mask := rfl
@[simp] theorem Slot.overwriteKz_masked (sl : Slot) (d1 d2 d3 d4 : BitVec 1280) :
    (sl.overwriteKz d1 d2 d3 d4).masked = sl.masked := rfl
@[simp] theorem Slot.overwriteKz_icodeSet (sl : Slot) (d1 d2 d3 d4 : BitVec 1280) :
    (sl.overwriteKz d1 d2 d3 d4).icodeSet = sl.icodeSet := rfl
@[simp] theorem Slot.overwriteKz_sched (sl : Slot) (d1 d2 d3 d4 : BitVec 1280) :
    (sl.overwriteKz d1 d2 d3 d4).sched = sl.sched := rfl
@[simp] theorem Slot.overwriteKz_icode (sl : Slot) (d1 d2 d3 d4 : BitVec 1280) :
    (sl.overwriteKz d1 d2 d3 d4).icode = sl.icode := rfl
@[simp] theorem Slot.overwriteKz_res (sl : Slot) (d1 d2 d3 d4 : BitVec 1280) :
    (sl.overwriteKz d1 d2 d3 d4).res = sl.res := rfl
@[simp] theorem Slot.overwriteKz_ek (sl : Slot) (d1 d2 d3 d4 : BitVec 1280) :
    (sl.overwriteKz d1 d2 d3 d4).ek = drawBlocks d1 := rfl
@[simp] theorem Slot.overwriteKz_em (sl : Slot) (d1 d2 d3 d4 : BitVec 1280) :
    (sl.overwriteKz d1 d2 d3 d4).em = drawBlocks d2 := rfl
@[simp] theorem Slot.overwriteKz_dk (sl : Slot) (d1 d2 d3 d4 : BitVec 1280) :
    (sl.overwriteKz d1 d2 d3 d4).dk = drawBlocks d3 := rfl
@[simp] theorem Slot.overwriteKz_dm (sl : Slot) (d1 d2 d3 d4 : BitVec 1280) :
    (sl.overwriteKz d1 d2 d3 d4).dm = drawBlocks d4 := rfl
@[simp] theorem Slot.overwriteKz_fk (sl : Slot) (d1 d2 d3 d4 : BitVec 1280) :
    (sl.overwriteKz d1 d2 d3 d4).fk = sl.fk := rfl
@[simp] theorem Slot.overwriteKz_fm (sl : Slot) (d1 d2 d3 d4 : BitVec 1280) :
    (sl.overwriteKz d1 d2 d3 d4).fm = sl.fm := rfl
@[simp] theorem Slot.overwriteKz_ik (sl : Slot) (d1 d2 d3 d4 : BitVec 1280) :
    (sl.overwriteKz d1 d2 d3 d4).ik = sl.ik := rfl
@[simp] theorem Slot.overwriteKz_im (sl : Slot) (d1 d2 d3 d4 : BitVec 1280) :
    (sl.overwriteKz d1 d2 d3 d4).im = sl.im := rfl
@[simp] theorem Slot.overwriteKz_rkicode (sl : Slot) (d1 d2 d3 d4 : BitVec 1280) :
    (sl.overwriteKz d1 d2 d3 d4).rkicode = sl.rkicode := rfl

/-! Overwriting the Magma arrays. -/

@[simp] theorem Slot.overwriteMg_alg (sl : Slot) (d1 d2 d3 d4 : KeyBytes) :
    (sl.overwriteMg d1 d2 d3 d4).alg = sl.alg := rfl
@[simp] theorem Slot.overwriteMg_raw (sl : Slot) (d1 d2 d3 d4 : KeyBytes) :
    (sl.overwriteMg d1 d2 d3 d4).raw = sl.raw := rfl
@[simp] theorem Slot.overwriteMg_mask (sl : Slot) (d1 d2 d3 d4 : KeyBytes) :
    (sl.overwriteMg d1 d2 d3 d4).mask = sl.mask := rfl
@[simp] theorem Slot.overwriteMg_masked (sl : Slot) (d1 d2 d3 d4 : KeyBytes) :
    (sl.overwriteMg d1 d2 d3 d4).masked = sl.masked := rfl
@[simp] theorem Slot.overwriteMg_icodeSet (sl : Slot) (d1 d2 d3 d4 : KeyBytes) :
    (sl.overwriteMg d1 d2 d3 d4).icodeSet = sl.icodeSet := rfl
@[simp] theorem Slot.overwriteMg_sched (sl : Slot) (d1 d2 d3 d4 : KeyBytes) :
    (sl.overwriteMg d1 d2 d3 d4).sched = sl.sched := rfl
@[simp] theorem Slot.overwriteMg_icode (sl : Slot) (d1 d2 d3 d4 : KeyBytes) :
    (sl.overwriteMg d1 d2 d3 d4).icode = sl.icode := rfl
@[simp] theorem Slot.overwriteMg_res (sl : Slot) (d1 d2 d3 d4 : KeyBytes) :
    (sl.overwriteMg d1 d2 d3 d4).res = sl.res := rfl
@[simp] theorem Slot.overwriteMg_ek (sl : Slot) (d1 d2 d3 d4 : KeyBytes) :
    (sl.overwriteMg d1 d2 d3 d4).ek = sl.ek := rfl
@[simp] theorem Slot.overwriteMg_em (sl : Slot) (d1 d2 d3 d4 : KeyBytes) :
    (sl.overwriteMg d1 d2 d3 d4).em = sl.em := rfl
@[simp] theorem Slot.overwriteMg_dk (sl : Slot) (d1 d2 d3 d4 : KeyBytes) :
    (sl.overwriteMg d1 d2 d3 d4).dk = sl.dk := rfl
@[simp] theorem Slot.overwriteMg_dm (sl : Slot) (d1 d2 d3 d4 : KeyBytes) :
    (sl.overwriteMg d1 d2 d3 d4).dm = sl.dm := rfl
@[simp] theorem Slot.overwriteMg_fk (sl : Slot) (d1 d2 d3 d4 : KeyBytes) :
    (sl.overwriteMg d1 d2 d3 d4).fk = drawWords d1 := rfl
@[simp] theorem Slot.overwriteMg_fm (sl : Slot) (d1 d2 d3 d4 : KeyBytes) :
    (sl.overwriteMg d1 d2 d3 d4).fm = drawWords d2 := rfl
@[simp] theorem Slot.overwriteMg_ik (sl : Slot) (d1 d2 d3 d4 : KeyBytes) :
    (sl.overwriteMg d1 d2 d3 d4).ik = drawWords d3 := rfl
@[simp] theorem Slot.overwriteMg_im (sl : Slot) (d1 d2 d3 d4 : KeyBytes) :
    (sl.overwriteMg d1 d2 d3 d4).im = drawWords d4 := rfl
@[simp] theorem Slot.overwriteMg_rkicode (sl : Slot) (d1 d2 d3 d4 : KeyBytes) :
    (sl.overwriteMg d1 d2 d3 d4).rkicode = sl.rkicode := rfl

/-! Spending the resource counter. -/

@[simp] theorem Slot.spend_alg (sl : Slot) (n : Nat) : (sl.spend n).alg = sl.alg := rfl
@[simp] theorem Slot.spend_raw (sl : Slot) (n : Nat) : (sl.spend n).raw = sl.raw := rfl
@[simp] theorem Slot.spend_mask (sl : Slot) (n : Nat) : (sl.spend n).mask = sl.mask := rfl
@[simp] theorem Slot.spend_masked (sl : Slot) (n : Nat) : (sl.spend n).masked = sl.masked := rfl
@[simp] theorem Slot.spend_icodeSet (sl : Slot) (n : Nat) : (sl.spend n).icodeSet = sl.icodeSet := rfl
@[simp] theorem Slot.spend_sched (sl : Slot) (n : Nat) : (sl.spend n).sched = sl.sched := rfl
@[simp] theorem Slot.spend_icode (sl : Slot) (n : Nat) : (sl.spend n).icode = sl.icode := rfl
@[simp] theorem Slot.spend_res (sl : Slot) (n : Nat) : (sl.spend n).res = sl.res - BitVec.ofNat 64 n := rfl
@[simp] theorem Slot.spend_ek (sl : Slot) (n : Nat) : (sl.spend n).ek = sl.ek := rfl
@[simp] theorem Slot.spend_em (sl : Slot) (n : Nat) : (sl.spend n).em = sl.em := rfl
@[simp] theorem Slot.spend_dk (sl : Slot) (n : Nat) : (sl.spend n).dk = sl.dk := rfl
@[simp] theorem Slot.spend_dm (sl : Slot) (n : Nat) : (sl.spend n).dm = sl.dm := rfl
@[simp] theorem Slot.spend_fk (sl : Slot) (n : Nat) : (sl.spend n).fk = sl.fk := rfl
@[simp] theorem Slot.spend_fm (sl : Slot) (n : Nat) : (sl.spend n).fm = sl.fm := rfl
@[simp] theorem Slot.spend_ik (sl : Slot) (n : Nat) : (sl.spend n).ik = sl.ik := rfl
@[simp] theorem Slot.spend_im (sl : Slot) (n : Nat) : (sl.spend n).im = sl.im := rfl
@[simp] theorem Slot.spend_rkicode (sl : Slot) (n : Nat) : (sl.spend n).rkicode = sl.rkicode := rfl

/-! Creation. -/

@[simp] theorem Slot.created_alg (sl : Slot) (a : Alg) (m : KeyBytes) (r : BitVec 64) :
    (sl.created a m r).alg = a := rfl
@[simp] theorem Slot.created_raw (sl : Slot) (a : Alg) (m : KeyBytes) (r : BitVec 64) :
    (sl.created a m r).raw = m := rfl
@[simp] theorem Slot.created_mask (sl : Slot) (a : Alg) (m : KeyBytes) (r : BitVec 64) :
    (sl.created a m r).mask = m := rfl
@[simp] theorem Slot.created_masked (sl : Slot) (a : Alg) (m : KeyBytes) (r : BitVec 64) :
    (sl.created a m r).masked = true := rfl
@[simp] theorem Slot.created_icodeSet (sl : Slot) (a : Alg) (m : KeyBytes) (r : BitVec 64) :
    (sl.created a m r).icodeSet = false := rfl
@[simp] theorem Slot.created_sched (sl : Slot) (a : Alg) (m : KeyBytes) (r : BitVec 64) :
    (sl.created a m r).sched = false := rfl
@[simp] theorem Slot.created_icode (sl : Slot) (a : Alg) (m : KeyBytes) (r : BitVec 64) :
    (sl.created a m r).icode = 0 := rfl
@[simp] theorem Slot.created_res (sl : Slot) (a : Alg) (m : KeyBytes) (r : BitVec 64) :
    (sl.created a m r).res = r := rfl
@[simp] theorem Slot.created_ek (sl : Slot) (a : Alg) (m : KeyBytes) (r : BitVec 64) :
    (sl.created a m r).ek = sl.ek := rfl
@[simp] theorem Slot.created_em (sl : Slot) (a : Alg) (m : KeyBytes) (r : BitVec 64) :
    (sl.created a m r).em = sl.em := rfl
@[simp] theorem Slot.created_dk (sl : Slot) (a : Alg) (m : KeyBytes) (r : BitVec 64) :
    (sl.created a m r).dk = sl.dk := rfl
@[simp] theorem Slot.created_dm (sl : Slot) (a : Alg) (m : KeyBytes) (r : BitVec 64) :
    (sl.created a m r).dm = sl.dm := rfl
@[simp] theorem Slot.created_fk (sl : Slot) (a : Alg) (m : KeyBytes) (r : BitVec 64) :
    (sl.created a m r).fk = sl.fk := rfl
@[simp] theorem Slot.created_fm (sl : Slot) (a : Alg) (m : KeyBytes) (r : BitVec 64) :
    (sl.created a m r).fm = sl.fm := rfl
@[simp] theorem Slot.created_ik (sl : Slot) (a : Alg) (m : KeyBytes) (r : BitVec 64) :
    (sl.created a m r).ik = sl.ik := rfl
@[simp] theorem Slot.created_im (sl : Slot) (a : Alg) (m : KeyBytes) (r : BitVec 64) :
    (sl.created a m r).im = sl.im := rfl
@[simp] theorem Slot.created_rkicode (sl : Slot) (a : Alg) (m : KeyBytes) (r : BitVec 64) :
    (sl.created a m r).rkicode = 0 := rfl

/-! Loading. -/

@[simp] theorem Slot.loaded_alg (sl : Slot) (v : KeyBytes) : (sl.loaded v).alg = sl.alg := rfl
@[simp] theorem Slot.loaded_raw (sl : Slot) (v : KeyBytes) : (sl.loaded v).raw = maskOn sl.alg v sl.mask := rfl
@[simp] theorem Slot.loaded_mask (sl : Slot) (v : KeyBytes) : (sl.loaded v).mask = sl.mask := rfl
@[simp] theorem Slot.loaded_masked (sl : Slot) (v : KeyBytes) : (sl.loaded v).masked = sl.masked := rfl
@[simp] theorem Slot.loaded_icodeSet (sl : Slot) (v : KeyBytes) : (sl.loaded v).icodeSet = true := rfl
@[simp] theorem Slot.loaded_sched (sl : Slot) (v : KeyBytes) : (sl.loaded v).sched = sl.sched := rfl
@[simp] theorem Slot.loaded_icode (sl : Slot) (v : KeyBytes) : (sl.loaded v).icode = keyCode v := rfl
@[simp] theorem Slot.loaded_res (sl : Slot) (v : KeyBytes) : (sl.loaded v).res = sl.res := rfl
@[simp] theorem Slot.loaded_ek (sl : Slot) (v : KeyBytes) : (sl.loaded v).ek = sl.ek := rfl
@[simp] theorem Slot.loaded_em (sl : Slot) (v : KeyBytes) : (sl.loaded v).em = sl.em := rfl
@[simp] theorem Slot.loaded_dk (sl : Slot) (v : KeyBytes) : (sl.loaded v).dk = sl.dk := rfl
@[simp] theorem Slot.loaded_dm (sl : Slot) (v : KeyBytes) : (sl.loaded v).dm = sl.dm := rfl
@[simp] theorem Slot.loaded_fk (sl : Slot) (v : KeyBytes) : (sl.loaded v).fk = sl.fk := rfl
@[simp] theorem Slot.loaded_fm (sl : Slot) (v : KeyBytes) : (sl.loaded v).fm = sl.fm := rfl
@[simp] theorem Slot.loaded_ik (sl : Slot) (v : KeyBytes) : (sl.loaded v).ik = sl.ik := rfl
@[simp] theorem Slot.loaded_im (sl : Slot) (v : KeyBytes) : (sl.loaded v).im = sl.im := rfl
@[simp] theorem Slot.loaded_rkicode (sl : Slot) (v : KeyBytes) : (sl.loaded v).rkicode = sl.rkicode := rfl

/-! Unmasking. -/

@[simp] theorem Slot.unmasked_alg (sl : Slot) :
    (sl.unmasked).alg = sl.alg := by unfold Slot.unmasked; split <;> simp_all
@[simp] theorem Slot.unmasked_raw (sl : Slot) :
    (sl.unmasked).raw = if sl.masked then maskOff sl.alg sl.raw sl.mask else sl.raw := by unfold Slot.unmasked; split <;> simp_all
@[simp] theorem Slot.unmasked_mask (sl : Slot) :
    (sl.unmasked).mask = if sl.masked then 0 else sl.mask := by unfold Slot.unmasked; split <;> simp_all
@[simp] theorem Slot.unmasked_masked (sl : Slot) :
    (sl.unmasked).masked = false := by unfold Slot.unmasked; split <;> simp_all
@[simp] theorem Slot.unmasked_icodeSet (sl : Slot) :
    (sl.unmasked).icodeSet = sl.icodeSet := by unfold Slot.unmasked; split <;> simp_all
@[simp] theorem Slot.unmasked_sched (sl : Slot) :
    (sl.unmasked).sched = sl.sched := by unfold Slot.unmasked; split <;> simp_all
@[simp] theorem Slot.unmasked_icode (sl : Slot) :
    (sl.unmasked).icode = sl.icode := by unfold Slot.unmasked; split <;> simp_all
@[simp] theorem Slot.unmasked_res (sl : Slot) :
    (sl.unmasked).res = sl.res := by unfold Slot.unmasked; split <;> simp_all
@[simp] theorem Slot.unmasked_ek (sl : Slot) : (sl.unmasked).ek = sl.ek := by unfold Slot.unmasked; split <;> simp_all
@[simp] theorem Slot.unmasked_em (sl : Slot) : (sl.unmasked).em = sl.em := by unfold Slot.unmasked; split <;> simp_all
@[simp] theorem Slot.unmasked_dk (sl : Slot) : (sl.unmasked).dk = sl.dk := by unfold Slot.unmasked; split <;> simp_all
@[simp] theorem Slot.unmasked_dm (sl : Slot) : (sl.unmasked).dm = sl.dm := by unfold Slot.unmasked; split <;> simp_all
@[simp] theorem Slot.unmasked_fk (sl : Slot) : (sl.unmasked).fk = sl.fk := by unfold Slot.unmasked; split <;> simp_all
@[simp] theorem Slot.unmasked_fm (sl : Slot) : (sl.unmasked).fm = sl.fm := by unfold Slot.unmasked; split <;> simp_all
@[simp] theorem Slot.unmasked_ik (sl : Slot) : (sl.unmasked).ik = sl.ik := by unfold Slot.unmasked; split <;> simp_all
@[simp] theorem Slot.unmasked_im (sl : Slot) : (sl.unmasked).im = sl.im := by unfold Slot.unmasked; split <;> simp_all
@[simp] theorem Slot.unmasked_rkicode (sl : Slot) :
    (sl.unmasked).rkicode = sl.rkicode := by unfold Slot.unmasked; split <;> simp_all

/-! Setting the integrity code. -/

@[simp] theorem Slot.certified_alg (sl : Slot) : (sl.certified).alg = sl.alg := rfl
@[simp] theorem Slot.certified_raw (sl : Slot) : (sl.certified).raw = sl.raw := rfl
@[simp] theorem Slot.certified_mask (sl : Slot) : (sl.certified).mask = sl.mask := rfl
@[simp] theorem Slot.certified_masked (sl : Slot) : (sl.certified).masked = sl.masked := rfl
@[simp] theorem Slot.certified_icodeSet (sl : Slot) : (sl.certified).icodeSet = true := rfl
@[simp] theorem Slot.certified_sched (sl : Slot) : (sl.certified).sched = sl.sched := rfl
@[simp] theorem Slot.certified_icode (sl : Slot) : (sl.certified).icode = keyCode sl.trueKey := rfl
@[simp] theorem Slot.certified_res (sl : Slot) : (sl.certified).res = sl.res := rfl
@[simp] theorem Slot.certified_ek (sl : Slot) : (sl.certified).ek = sl.ek := rfl
@[simp] theorem Slot.certified_em (sl : Slot) : (sl.certified).em = sl.em := rfl
@[simp] theorem Slot.certified_dk (sl : Slot) : (sl.certified).dk = sl.dk := rfl
@[simp] theorem Slot.certified_dm (sl : Slot) : (sl.certified).dm = sl.dm := rfl
@[simp] theorem Slot.certified_fk (sl : Slot) : (sl.certified).fk = sl.fk := rfl
@[simp] theorem Slot.certified_fm (sl : Slot) : (sl.certified).fm = sl.fm := rfl
@[simp] theorem Slot.certified_ik (sl : Slot) : (sl.certified).ik = sl.ik := rfl
@[simp] theorem Slot.certified_im (sl : Slot) : (sl.certified).im = sl.im := rfl
@[simp] theorem Slot.certified_rkicode (sl : Slot) : (sl.certified).rkicode = sl.rkicode := rfl

/-! Destruction. -/

@[simp] theorem Slot.destroyed_alg (sl : Slot) (a b : KeyBytes) : (sl.destroyed a b).alg = .empty := rfl
@[simp] theorem Slot.destroyed_raw (sl : Slot) (a b : KeyBytes) : (sl.destroyed a b).raw = a := rfl
@[simp] theorem Slot.destroyed_mask (sl : Slot) (a b : KeyBytes) : (sl.destroyed a b).mask = b := rfl
@[simp] theorem Slot.destroyed_masked (sl : Slot) (a b : KeyBytes) : (sl.destroyed a b).masked = false := rfl
@[simp] theorem Slot.destroyed_icodeSet (sl : Slot) (a b : KeyBytes) : (sl.destroyed a b).icodeSet = false := rfl
@[simp] theorem Slot.destroyed_sched (sl : Slot) (a b : KeyBytes) : (sl.destroyed a b).sched = false := rfl
@[simp] theorem Slot.destroyed_icode (sl : Slot) (a b : KeyBytes) : (sl.destroyed a b).icode = 0 := rfl
@[simp] theorem Slot.destroyed_res (sl : Slot) (a b : KeyBytes) : (sl.destroyed a b).res = 0 := rfl
@[simp] theorem Slot.destroyed_ek (sl : Slot) (a b : KeyBytes) : (sl.destroyed a b).ek = sl.ek := rfl
@[simp] theorem Slot.destroyed_em (sl : Slot) (a b : KeyBytes) : (sl.destroyed a b).em = sl.em := rfl
@[simp] theorem Slot.destroyed_dk (sl : Slot) (a b : KeyBytes) : (sl.destroyed a b).dk = sl.dk := rfl
@[simp] theorem Slot.destroyed_dm (sl : Slot) (a b : KeyBytes) : (sl.destroyed a b).dm = sl.dm := rfl
@[simp] theorem Slot.destroyed_fk (sl : Slot) (a b : KeyBytes) : (sl.destroyed a b).fk = sl.fk := rfl
@[simp] theorem Slot.destroyed_fm (sl : Slot) (a b : KeyBytes) : (sl.destroyed a b).fm = sl.fm := rfl
@[simp] theorem Slot.destroyed_ik (sl : Slot) (a b : KeyBytes) : (sl.destroyed a b).ik = sl.ik := rfl
@[simp] theorem Slot.destroyed_im (sl : Slot) (a b : KeyBytes) : (sl.destroyed a b).im = sl.im := rfl
@[simp] theorem Slot.destroyed_rkicode (sl : Slot) (a b : KeyBytes) : (sl.destroyed a b).rkicode = 0 := rfl

/-! The Kuznechik schedule. -/

@[simp] theorem Slot.kzScheduled_alg (sl : Slot) (d1 d2 : BitVec 1280) : (sl.kzScheduled d1 d2).alg = sl.alg := rfl
@[simp] theorem Slot.kzScheduled_raw (sl : Slot) (d1 d2 : BitVec 1280) : (sl.kzScheduled d1 d2).raw = sl.raw := rfl
@[simp] theorem Slot.kzScheduled_mask (sl : Slot) (d1 d2 : BitVec 1280) : (sl.kzScheduled d1 d2).mask = sl.mask := rfl
@[simp] theorem Slot.kzScheduled_masked (sl : Slot) (d1 d2 : BitVec 1280) :
    (sl.kzScheduled d1 d2).masked = sl.masked := rfl
@[simp] theorem Slot.kzScheduled_icodeSet (sl : Slot) (d1 d2 : BitVec 1280) :
    (sl.kzScheduled d1 d2).icodeSet = sl.icodeSet := rfl
@[simp] theorem Slot.kzScheduled_sched (sl : Slot) (d1 d2 : BitVec 1280) : (sl.kzScheduled d1 d2).sched = true := rfl
@[simp] theorem Slot.kzScheduled_icode (sl : Slot) (d1 d2 : BitVec 1280) :
    (sl.kzScheduled d1 d2).icode = sl.icode := rfl
@[simp] theorem Slot.kzScheduled_res (sl : Slot) (d1 d2 : BitVec 1280) : (sl.kzScheduled d1 d2).res = sl.res := rfl
@[simp] theorem Slot.kzScheduled_ek (sl : Slot) (d1 d2 : BitVec 1280) :
    (sl.kzScheduled d1 d2).ek = xorBlocks (kzRoundKeys sl.trueKey) (drawBlocks d1) := rfl
@[simp] theorem Slot.kzScheduled_em (sl : Slot) (d1 d2 : BitVec 1280) :
    (sl.kzScheduled d1 d2).em = drawBlocks d1 := rfl
@[simp] theorem Slot.kzScheduled_dk (sl : Slot) (d1 d2 : BitVec 1280) :
    (sl.kzScheduled d1 d2).dk = xorBlocks (kzDecKeys (kzRoundKeys sl.trueKey)) (drawBlocks d2) := rfl
@[simp] theorem Slot.kzScheduled_dm (sl : Slot) (d1 d2 : BitVec 1280) :
    (sl.kzScheduled d1 d2).dm = drawBlocks d2 := rfl
@[simp] theorem Slot.kzScheduled_fk (sl : Slot) (d1 d2 : BitVec 1280) : (sl.kzScheduled d1 d2).fk = sl.fk := rfl
@[simp] theorem Slot.kzScheduled_fm (sl : Slot) (d1 d2 : BitVec 1280) : (sl.kzScheduled d1 d2).fm = sl.fm := rfl
@[simp] theorem Slot.kzScheduled_ik (sl : Slot) (d1 d2 : BitVec 1280) : (sl.kzScheduled d1 d2).ik = sl.ik := rfl
@[simp] theorem Slot.kzScheduled_im (sl : Slot) (d1 d2 : BitVec 1280) : (sl.kzScheduled d1 d2).im = sl.im := rfl
@[simp] theorem Slot.kzScheduled_rkicode (sl : Slot) (d1 d2 : BitVec 1280) :
    (sl.kzScheduled d1 d2).rkicode = kzRoundCode (kzRoundKeys sl.trueKey) (kzDecKeys (kzRoundKeys sl.trueKey)) := rfl

/-! The Magma schedule. -/

@[simp] theorem Slot.mgScheduled_alg (sl : Slot) (c : Bool) (d1 d2 : KeyBytes) :
    (sl.mgScheduled c d1 d2).alg = sl.alg := rfl
@[simp] theorem Slot.mgScheduled_raw (sl : Slot) (c : Bool) (d1 d2 : KeyBytes) :
    (sl.mgScheduled c d1 d2).raw = sl.raw := rfl
@[simp] theorem Slot.mgScheduled_mask (sl : Slot) (c : Bool) (d1 d2 : KeyBytes) :
    (sl.mgScheduled c d1 d2).mask = sl.mask := rfl
@[simp] theorem Slot.mgScheduled_masked (sl : Slot) (c : Bool) (d1 d2 : KeyBytes) :
    (sl.mgScheduled c d1 d2).masked = sl.masked := rfl
@[simp] theorem Slot.mgScheduled_icodeSet (sl : Slot) (c : Bool) (d1 d2 : KeyBytes) :
    (sl.mgScheduled c d1 d2).icodeSet = sl.icodeSet := rfl
@[simp] theorem Slot.mgScheduled_sched (sl : Slot) (c : Bool) (d1 d2 : KeyBytes) :
    (sl.mgScheduled c d1 d2).sched = true := rfl
@[simp] theorem Slot.mgScheduled_icode (sl : Slot) (c : Bool) (d1 d2 : KeyBytes) :
    (sl.mgScheduled c d1 d2).icode = sl.icode := rfl
@[simp] theorem Slot.mgScheduled_res (sl : Slot) (c : Bool) (d1 d2 : KeyBytes) :
    (sl.mgScheduled c d1 d2).res = sl.res := rfl
@[simp] theorem Slot.mgScheduled_ek (sl : Slot) (c : Bool) (d1 d2 : KeyBytes) :
    (sl.mgScheduled c d1 d2).ek = sl.ek := rfl
@[simp] theorem Slot.mgScheduled_em (sl : Slot) (c : Bool) (d1 d2 : KeyBytes) :
    (sl.mgScheduled c d1 d2).em = sl.em := rfl
@[simp] theorem Slot.mgScheduled_dk (sl : Slot) (c : Bool) (d1 d2 : KeyBytes) :
    (sl.mgScheduled c d1 d2).dk = sl.dk := rfl
@[simp] theorem Slot.mgScheduled_dm (sl : Slot) (c : Bool) (d1 d2 : KeyBytes) :
    (sl.mgScheduled c d1 d2).dm = sl.dm := rfl
@[simp] theorem Slot.mgScheduled_fk (sl : Slot) (c : Bool) (d1 d2 : KeyBytes) :
    (sl.mgScheduled c d1 d2).fk = addWords (mgKeyWords c sl.trueKey) (drawWords d1) := rfl
@[simp] theorem Slot.mgScheduled_fm (sl : Slot) (c : Bool) (d1 d2 : KeyBytes) :
    (sl.mgScheduled c d1 d2).fm = drawWords d1 := rfl
@[simp] theorem Slot.mgScheduled_ik (sl : Slot) (c : Bool) (d1 d2 : KeyBytes) :
    (sl.mgScheduled c d1 d2).ik = addWords (negWords (mgKeyWords c sl.trueKey)) (drawWords d2) := rfl
@[simp] theorem Slot.mgScheduled_im (sl : Slot) (c : Bool) (d1 d2 : KeyBytes) :
    (sl.mgScheduled c d1 d2).im = drawWords d2 := rfl
@[simp] theorem Slot.mgScheduled_rkicode (sl : Slot) (c : Bool) (d1 d2 : KeyBytes) :
    (sl.mgScheduled c d1 d2).rkicode = mgRoundCode (mgKeyWords c sl.trueKey) (negWords (mgKeyWords c sl.trueKey)) := rfl

/-! Deleting the schedule. -/

@[simp] theorem Slot.unscheduled_alg (sl : Slot) : (sl.unscheduled).alg = sl.alg := rfl
@[simp] theorem Slot.unscheduled_raw (sl : Slot) : (sl.unscheduled).raw = sl.raw := rfl
@[simp] theorem Slot.unscheduled_mask (sl : Slot) : (sl.unscheduled).mask = sl.mask := rfl
@[simp] theorem Slot.unscheduled_masked (sl : Slot) : (sl.unscheduled).masked = sl.masked := rfl
@[simp] theorem Slot.unscheduled_icodeSet (sl : Slot) : (sl.unscheduled).icodeSet = sl.icodeSet := rfl
@[simp] theorem Slot.unscheduled_sched (sl : Slot) : (sl.unscheduled).sched = false := rfl
@[simp] theorem Slot.unscheduled_icode (sl : Slot) : (sl.unscheduled).icode = sl.icode := rfl
@[simp] theorem Slot.unscheduled_res (sl : Slot) : (sl.unscheduled).res = sl.res := rfl
@[simp] theorem Slot.unscheduled_ek (sl : Slot) : (sl.unscheduled).ek = sl.ek := rfl
@[simp] theorem Slot.unscheduled_em (sl : Slot) : (sl.unscheduled).em = sl.em := rfl
@[simp] theorem Slot.unscheduled_dk (sl : Slot) : (sl.unscheduled).dk = sl.dk := rfl
@[simp] theorem Slot.unscheduled_dm (sl : Slot) : (sl.unscheduled).dm = sl.dm := rfl
@[simp] theorem Slot.unscheduled_fk (sl : Slot) : (sl.unscheduled).fk = sl.fk := rfl
@[simp] theorem Slot.unscheduled_fm (sl : Slot) : (sl.unscheduled).fm = sl.fm := rfl
@[simp] theorem Slot.unscheduled_ik (sl : Slot) : (sl.unscheduled).ik = sl.ik := rfl
@[simp] theorem Slot.unscheduled_im (sl : Slot) : (sl.unscheduled).im = sl.im := rfl
@[simp] theorem Slot.unscheduled_rkicode (sl : Slot) : (sl.unscheduled).rkicode = 0 := rfl

end Sys2Proof.Machine
end

