-- ==== Sys2Proof/Laws/Bytes.lean ====
section
/-! SUPPORT. Byte strings: bytes of a block, a block from its bytes, the words of a key, and the cancellation of masks over
arrays. -/

namespace Sys2Proof.Machine

/-! ## Bytes of a block -/

theorem byteAt_xor (a b : BitVec n) (j : Nat) : byteAt (a ^^^ b) j = byteAt a j ^^^ byteAt b j := by
  ext i hi
  simp [byteAt]

theorem byteAt_blockOf (f : Nat → Byte) (j : Nat) (h : j < 16) : byteAt (blockOf f) j = f j := by
  unfold byteAt blockOf
  interval_cases j <;>
  · ext i hi
    simp only [BitVec.getElem_extractLsb', BitVec.getLsbD_append]
    interval_cases i <;> rfl

theorem getLsbD_byteAt (a : BitVec n) (j i : Nat) (h : i < 8) : (byteAt a j).getLsbD i = a.getLsbD (8 * j + i) := by
  simp [byteAt, h]

/-- Two blocks with the same sixteen bytes are the same. -/
theorem block_ext (a b : Block) (h : ∀ j < 16, byteAt a j = byteAt b j) : a = b := by
  apply BitVec.eq_of_getLsbD_eq
  intro i hi
  have := congrArg (fun v : Byte => v.getLsbD (i % 8)) (h (i / 8) (by omega))
  simp only [getLsbD_byteAt _ _ _ (Nat.mod_lt i (by decide : 0 < 8))] at this
  rwa [Nat.div_add_mod] at this

theorem blockOf_byteAt (a : Block) : blockOf (byteAt a) = a :=
  block_ext _ _ fun j hj => byteAt_blockOf _ j hj

theorem length_toBytes (n : Nat) (v : BitVec m) : (toBytes n v).length = n := by
  simp [toBytes]

theorem getElem?_toBytes (n : Nat) (v : BitVec m) (j : Nat) (h : j < n) : (toBytes n v)[j]? = some (byteAt v j) := by
  simp [toBytes, List.getElem?_map, List.getElem?_range h]

theorem leNat_lt (bs : List Byte) : leNat bs < 256 ^ bs.length := by
  induction bs with
  | nil => simp [leNat]
  | cons b bs ih =>
    have := b.isLt
    simp only [leNat, List.length_cons, Nat.pow_succ]
    omega

theorem leNat_div_mod (bs : List Byte) (j : Nat) (h : j < bs.length) :
    leNat bs / 256 ^ j % 256 = (bs[j]).toNat := by
  induction bs generalizing j with
  | nil => simp at h
  | cons b bs ih =>
    have hb := b.isLt
    cases j with
    | zero => simp [leNat]; omega
    | succ j =>
      have := ih j (by simpa using h)
      simp only [leNat, List.getElem_cons_succ]
      rw [← this, Nat.pow_succ, Nat.mul_comm (256 ^ j), ← Nat.div_div_eq_div_mul]
      congr 2
      omega

/-- Byte j of the string made from a list of bytes. -/
theorem byteAt_ofBytes (n : Nat) (bs : List Byte) (j : Nat) (h : j < bs.length) (hn : 8 * j + 8 ≤ n) :
    byteAt (ofBytes n bs) j = bs[j] := by
  have := leNat_div_mod bs j h
  apply BitVec.eq_of_toNat_eq
  rw [← this]
  simp only [byteAt, ofBytes, BitVec.extractLsb'_toNat, BitVec.toNat_ofNat, Nat.shiftRight_eq_div_pow]
  rw [show (256 : Nat) = 2 ^ 8 by rfl, ← Nat.pow_mul]
  apply Nat.eq_of_testBit_eq
  intro i
  simp only [Nat.testBit_mod_two_pow, Nat.testBit_div_two_pow]
  by_cases hi : i < 8
  · simp [hi, show i + 8 * j < n by omega]
  · simp [hi]

/-- A 16-byte string made from its own bytes. -/
theorem ofBytes_toBytes_block (a : Block) : ofBytes 128 (toBytes 16 a) = a := by
  refine block_ext _ _ fun j hj => ?_
  rw [byteAt_ofBytes _ _ _ (by simpa [length_toBytes] using hj) (by omega)]
  simp [toBytes]

/-- The bytes of a string made from a list of as many bytes. -/
theorem toBytes_ofBytes (n : Nat) (bs : List Byte) : toBytes bs.length (ofBytes (8 * bs.length + n) bs) = bs := by
  apply List.ext_getElem (length_toBytes _ _)
  intro j h1 h2
  simp only [toBytes, List.getElem_map, List.getElem_range]
  exact byteAt_ofBytes _ _ _ h2 (by omega)

/-! ## Words of a key -/

theorem keyWord_keyOfWords (f : Nat → Word) (j : Nat) (h : j < 8) : keyWord (keyOfWords f) j = f j := by
  apply BitVec.eq_of_getLsbD_eq
  intro i hi
  unfold keyWord keyOfWords
  interval_cases j <;>
  · simp only [BitVec.getLsbD_extractLsb', BitVec.getLsbD_append]
    interval_cases i <;> rfl

/-- Two keys with the same eight words are the same. -/
theorem key_ext (a b : KeyBytes) (h : ∀ j < 8, keyWord a j = keyWord b j) : a = b := by
  apply BitVec.eq_of_getLsbD_eq
  intro i hi
  have := congrArg (fun v : Word => v.getLsbD (i % 32)) (h (i / 32) (by omega))
  simp only [keyWord, BitVec.getLsbD_extractLsb', Nat.mod_lt i (by decide : 0 < 32), decide_true, Bool.true_and,
    Nat.div_add_mod] at this
  exact this

/-! ## Arrays -/

theorem length_drawBlocks (d : BitVec 1280) : (drawBlocks d).length = 10 := by simp [drawBlocks]

theorem length_drawWords (d : KeyBytes) : (drawWords d).length = 8 := by simp [drawWords]

theorem length_xorBlocks (v m : List Block) : (xorBlocks v m).length = min v.length m.length := by simp [xorBlocks]

theorem length_addWords (v m : List Word) : (addWords v m).length = min v.length m.length := by simp [addWords]

theorem length_subWords (v m : List Word) : (subWords v m).length = min v.length m.length := by simp [subWords]

/-- Unmasking undoes masking. -/
theorem xorBlocks_cancel (v m : List Block) (h : v.length ≤ m.length) : xorBlocks (xorBlocks v m) m = v := by
  induction v generalizing m with
  | nil => simp [xorBlocks]
  | cons a v ih =>
    cases m with
    | nil => simp at h
    | cons b m => simpa [xorBlocks, BitVec.xor_assoc] using ih m (by simpa using h)

/-- Additive unmasking undoes additive masking. -/
theorem subWords_addWords (v m : List Word) (h : v.length ≤ m.length) : subWords (addWords v m) m = v := by
  induction v generalizing m with
  | nil => simp [subWords, addWords]
  | cons a v ih =>
    cases m with
    | nil => simp at h
    | cons b m => simpa [subWords, addWords] using ih m (by simpa using h)

/-- Re-masking round keys leaves the unmasked values. -/
theorem xorBlocks_kzRemaskKeys (v m n : List Block) (h : v.length = m.length) (h' : m.length = n.length) :
    xorBlocks (kzRemaskKeys v m n) n = xorBlocks v m := by
  induction v generalizing m n with
  | nil => simp [xorBlocks, kzRemaskKeys]
  | cons a v ih =>
    obtain _ | ⟨b, m⟩ := m
    · simp at h
    obtain _ | ⟨c, n⟩ := n
    · simp at h'
    have := ih m n (by simpa using h) (by simpa using h')
    simp only [xorBlocks, kzRemaskKeys, List.zipWith_cons_cons] at this ⊢
    rw [this]
    congr 1
    rw [BitVec.xor_assoc, BitVec.xor_comm b c, ← BitVec.xor_assoc, BitVec.xor_assoc a c c]
    simp

/-- Re-masking additive round keys leaves the unmasked values. -/
theorem subWords_mgRemaskKeys (v m n : List Word) (h : v.length = m.length) (h' : m.length = n.length) :
    subWords (mgRemaskKeys v m n) n = subWords v m := by
  induction v generalizing m n with
  | nil => simp [subWords, mgRemaskKeys, addWords]
  | cons a v ih =>
    obtain _ | ⟨b, m⟩ := m
    · simp at h
    obtain _ | ⟨c, n⟩ := n
    · simp at h'
    have := ih m n (by simpa using h) (by simpa using h')
    simp only [subWords, addWords, mgRemaskKeys, List.zipWith_cons_cons] at this ⊢
    rw [this]
    congr 1
    bv_omega

end Sys2Proof.Machine
end

