-- ==== Sys2Proof/Laws/Memory.lean ====
section
/-! SUPPORT. What the memory operations do, read through `memByte`, and that each keeps the canonical form. -/

namespace Sys2Proof.Machine

/-! ## Reading one byte after a write -/

theorem memByte_nil (x : Nat) : memByte [] x = none := rfl

/-- A byte written reads back, and every other address reads as before. -/
theorem memByte_memSet (m : Memory) (a : Nat) (b : Byte) (x : Nat) :
    memByte (memSet m a b) x = if x = a then some b else memByte m x := by
  induction m with
  | nil => simp [memSet, memByte]
  | cons c rest ih =>
    obtain ⟨a', b'⟩ := c
    simp only [memSet]
    split
    · simp only [memByte]
    · split
      · subst_vars; simp only [memByte]; split <;> simp_all
      · simp only [memByte, ih]
        split
        · split
          · omega
          · rfl
        · rfl

/-- A write of bytes, read through one address. -/
theorem memByte_memWrite (m : Memory) (a : Nat) (bs : List Byte) (x : Nat) :
    memByte (memWrite m a bs) x = if a ≤ x ∧ x < a + bs.length then bs[x - a]? else memByte m x := by
  induction bs generalizing m a with
  | nil =>
    rw [if_neg (by simp)]
    rfl
  | cons b bs ih =>
    simp only [memWrite, ih, memByte_memSet, List.length_cons]
    by_cases h : x = a
    · subst h
      rw [if_neg (by omega), if_pos rfl, if_pos (by omega)]
      simp
    · rw [if_neg h]
      by_cases h' : a ≤ x ∧ x < a + (bs.length + 1)
      · rw [if_pos (by omega), if_pos h']
        obtain ⟨d, hd⟩ : ∃ d, x - a = d + 1 := ⟨x - a - 1, by omega⟩
        have : x - (a + 1) = d := by omega
        simp [hd, this]
      · rw [if_neg (by omega), if_neg h']

/-- Outside the bytes stored, every address reads as before. -/
theorem memByte_store_of_not_within (s : State) (a : Nat) (bs : List Byte) (x : Nat) (h : ¬ within x a bs.length) :
    memByte (s.store a bs).mem x = memByte s.mem x := by
  rw [State.store_mem, memByte_memWrite]
  exact if_neg h

/-- Inside the bytes stored, the byte stored there is read. -/
theorem memByte_store_of_within (s : State) (a : Nat) (bs : List Byte) (j : Nat) (h : j < bs.length) :
    memByte (s.store a bs).mem (a + j) = bs[j]? := by
  rw [State.store_mem, memByte_memWrite, if_pos (by omega)]
  congr 1
  omega

/-! ## Reading a string -/

/-- A read answers exactly when every byte has been written, with those bytes. -/
theorem memRead_eq_ok (m : Memory) (a n : Nat) (bs : List Byte) :
    memRead m a n = .ok bs ↔ bs.length = n ∧ ∀ j < n, memByte m (a + j) = bs[j]? := by
  induction n generalizing a bs with
  | zero =>
    constructor
    · rintro h
      cases h
      simp
    · rintro ⟨h, -⟩
      rw [List.length_eq_zero_iff] at h
      subst h
      rfl
  | succ n ih =>
    rw [memRead]
    constructor
    · intro h
      split at h
      · cases h
      · rename_i b hb
        split at h
        · cases h
        · rename_i bs' hbs
          cases h
          obtain ⟨hl, hj⟩ := (ih _ _).1 hbs
          refine ⟨by simp [hl], fun j hjn => ?_⟩
          cases j with
          | zero => simpa using hb
          | succ j =>
            have := hj j (by omega)
            rw [show a + (j + 1) = a + 1 + j by omega, this]
            simp
    · rintro ⟨hl, hj⟩
      cases bs with
      | nil => simp at hl
      | cons b bs =>
        have hb : memByte m a = some b := by simpa using hj 0 (by omega)
        have hr : memRead m (a + 1) n = .ok bs := by
          refine (ih _ _).2 ⟨by simpa using hl, fun j hjn => ?_⟩
          have := hj (j + 1) (by omega)
          rw [show a + 1 + j = a + (j + 1) by omega, this]
          simp
        rw [hb, hr]

/-- A read stops exactly at the first byte that nothing has written. -/
theorem memRead_eq_error (m : Memory) (a n x : Nat) :
    memRead m a n = .error x ↔
      within x a n ∧ memByte m x = none ∧ ∀ y, a ≤ y → y < x → (memByte m y).isSome = true := by
  induction n generalizing a with
  | zero => simp +arith [memRead, within]
  | succ n ih =>
    rw [memRead]
    cases hb : memByte m a with
    | none =>
      constructor
      · intro h
        cases h
        exact ⟨⟨by omega, by omega⟩, hb, by omega⟩
      · rintro ⟨⟨h1, h2⟩, hx, hy⟩
        rcases Nat.lt_or_ge a x with hlt | hge
        · have := hy a (Nat.le_refl _) hlt
          rw [hb] at this
          cases this
        · rw [Nat.le_antisymm h1 hge]
    | some b =>
      have key : memRead m (a + 1) n = .error x ↔
          within x a (n + 1) ∧ memByte m x = none ∧ ∀ y, a ≤ y → y < x → (memByte m y).isSome = true := by
        rw [ih]
        constructor
        · rintro ⟨⟨h1, h2⟩, hx, hy⟩
          refine ⟨⟨by omega, by omega⟩, hx, fun y h3 h4 => ?_⟩
          rcases Nat.lt_or_ge a y with h | h
          · exact hy y h h4
          · rw [show y = a by omega, hb]
            rfl
        · rintro ⟨⟨h1, h2⟩, hx, hy⟩
          have : x ≠ a := by
            rintro rfl
            rw [hb] at hx
            cases hx
          exact ⟨⟨by omega, by omega⟩, hx, fun y h3 h4 => hy y (by omega) h4⟩
      rw [← key]
      cases memRead m (a + 1) n <;> simp

/-- A readable string is read as its bytes. -/
theorem memRead_of_readable (s : State) (a n : Nat) (h : readable s a n) :
    memRead s.mem a n = .ok (bytesAt s a n) := by
  rw [memRead_eq_ok]
  refine ⟨by simp [bytesAt], fun j hj => ?_⟩
  have := h j hj
  simp only [bytesAt, List.getElem?_map, List.getElem?_range hj, Option.map_some]
  cases hm : memByte s.mem (a + j) with
  | none => simp [hm] at this
  | some b => simp

/-! ## The canonical form -/

theorem risingFrom_mono (n n' : Nat) (m : Memory) (h : n' ≤ n) (hm : risingFrom n m = true) :
    risingFrom n' m = true := by
  cases m with
  | nil => rfl
  | cons c rest =>
    obtain ⟨a, b⟩ := c
    simp only [risingFrom, Bool.and_eq_true, decide_eq_true_eq] at hm ⊢
    exact ⟨by omega, hm.2⟩

theorem risingFrom_memSet (n : Nat) (m : Memory) (a : Nat) (b : Byte) (ha : n ≤ a) (hm : risingFrom n m = true) :
    risingFrom n (memSet m a b) = true := by
  induction m generalizing n with
  | nil => simpa [memSet, risingFrom] using ha
  | cons c rest ih =>
    obtain ⟨a', b'⟩ := c
    simp only [risingFrom, Bool.and_eq_true, decide_eq_true_eq] at hm
    simp only [memSet]
    split
    · simp only [risingFrom, Bool.and_eq_true, decide_eq_true_eq]
      exact ⟨ha, by omega, hm.2⟩
    · split
      · subst_vars
        simp only [risingFrom, Bool.and_eq_true, decide_eq_true_eq]
        exact ⟨ha, hm.2⟩
      · simp only [risingFrom, Bool.and_eq_true, decide_eq_true_eq]
        exact ⟨hm.1, ih _ (by omega) hm.2⟩

theorem Memory.wf_iff (m : Memory) : Memory.wf m = true ↔ risingFrom 0 m = true := by
  simp [Memory.wf, unlistedByte]

/-- Writing a byte keeps the canonical form. -/
theorem wf_memSet (m : Memory) (a : Nat) (b : Byte) (h : Memory.wf m = true) : Memory.wf (memSet m a b) = true := by
  rw [Memory.wf_iff] at *
  exact risingFrom_memSet 0 m a b (Nat.zero_le _) h

/-- Writing bytes keeps the canonical form. -/
theorem wf_memWrite (m : Memory) (a : Nat) (bs : List Byte) (h : Memory.wf m = true) :
    Memory.wf (memWrite m a bs) = true := by
  induction bs generalizing m a with
  | nil => exact h
  | cons b bs ih => exact ih _ _ (wf_memSet m a b h)

theorem wf_store (s : State) (a : Nat) (bs : List Byte) (h : s.mem.wf = true) : (s.store a bs).mem.wf = true :=
  wf_memWrite _ _ _ h

theorem wf_scramble (s : State) (a n : Nat) (h : s.mem.wf = true) : (s.scramble a n).mem.wf = true :=
  wf_memWrite _ _ _ h

theorem wf_reset (cfg : Config) : (State.resetWith cfg).mem.wf = true := rfl

theorem memByte_of_lt (n : Nat) (m : Memory) (x : Nat) (hm : risingFrom n m = true) (hx : x < n) :
    memByte m x = none := by
  induction m generalizing n with
  | nil => rfl
  | cons c rest ih =>
    obtain ⟨a, b⟩ := c
    simp only [risingFrom, Bool.and_eq_true, decide_eq_true_eq] at hm
    rw [memByte, if_neg (by omega)]
    exact ih _ hm.2 (by omega)

theorem memory_ext_from (n : Nat) (m m' : Memory) (h : risingFrom n m = true) (h' : risingFrom n m' = true)
    (he : ∀ x, n ≤ x → memByte m x = memByte m' x) : m = m' := by
  induction m generalizing n m' with
  | nil =>
    cases m' with
    | nil => rfl
    | cons c' rest' =>
      obtain ⟨a', b'⟩ := c'
      simp only [risingFrom, Bool.and_eq_true, decide_eq_true_eq] at h'
      have := he a' h'.1
      simp [memByte, unlistedByte] at this
  | cons c rest ih =>
    obtain ⟨a, b⟩ := c
    simp only [risingFrom, Bool.and_eq_true, decide_eq_true_eq] at h
    cases m' with
    | nil =>
      have := he a h.1
      simp [memByte, unlistedByte] at this
    | cons c' rest' =>
      obtain ⟨a', b'⟩ := c'
      simp only [risingFrom, Bool.and_eq_true, decide_eq_true_eq] at h'
      have haa : a = a' := by
        rcases Nat.lt_trichotomy a a' with hl | heq | hg
        · have := he a h.1
          rw [memByte, if_pos rfl, memByte, if_neg (by omega), memByte_of_lt _ _ _ h'.2 (by omega)] at this
          cases this
        · exact heq
        · have := he a' h'.1
          rw [memByte, if_neg (by omega), memByte_of_lt _ _ _ h.2 (by omega), memByte, if_pos rfl] at this
          cases this
      subst haa
      have hb : b = b' := by simpa [memByte] using he a h.1
      subst hb
      refine congrArg _ (ih (a + 1) rest' h.2 h'.2 fun x hx => ?_)
      have := he x (by omega)
      rwa [memByte, if_neg (by omega), memByte, if_neg (by omega)] at this

/-- Two memories in canonical form that read the same everywhere are the same list. -/
theorem memory_ext (m m' : Memory) (h : Memory.wf m = true) (h' : Memory.wf m' = true)
    (he : ∀ x, memByte m x = memByte m' x) : m = m' :=
  memory_ext_from 0 m m' ((Memory.wf_iff m).1 h) ((Memory.wf_iff m').1 h') fun x _ => he x

end Sys2Proof.Machine
end

