-- ==== Sys2Proof/Laws/Ops.lean ====
section
/-! SUPPORT. What each shared operation of the commands can do, said once: slots, requests to the entropy source, reads,
the ordered checks, the frame of a command and re-masking. -/

namespace Sys2Proof.Machine

/-! ## Slots -/

theorem slotAt_setSlot_self (s : State) (k : SlotIx) (sl : Slot) (h : k.toNat < s.slots.length) :
    (s.setSlot k sl).slotAt k = sl := by
  simp [State.slotAt, List.getD_eq_getElem?_getD, h]

theorem slotAt_setSlot_ne (s : State) (k k' : SlotIx) (sl : Slot) (h : k' ≠ k) :
    (s.setSlot k sl).slotAt k' = s.slotAt k' := by
  have : k.toNat ≠ k'.toNat := fun e => h (BitVec.eq_of_toNat_eq e.symm)
  simp [State.slotAt, List.getD_eq_getElem?_getD, List.getElem?_set_ne this]

/-- Every slot read after a slot update: the new one, or the one that was there. -/
theorem slotAt_setSlot_cases (s : State) (k k' : SlotIx) (sl : Slot) :
    (s.setSlot k sl).slotAt k' = s.slotAt k' ∨ (k' = k ∧ (s.setSlot k sl).slotAt k' = sl) := by
  by_cases h : k' = k
  · subst h
    by_cases hl : k'.toNat < s.slots.length
    · exact .inr ⟨rfl, slotAt_setSlot_self s k' sl hl⟩
    · left
      simp [State.slotAt, List.getD_eq_getElem?_getD, List.set_eq_of_length_le (Nat.le_of_not_lt hl)]
  · exact .inl (slotAt_setSlot_ne s k k' sl h)

theorem setSlot_slotAt (s : State) (k : SlotIx) : s.setSlot k (s.slotAt k) = s := by
  have : s.slots.set k.toNat (s.slotAt k) = s.slots := by
    by_cases hl : k.toNat < s.slots.length
    · apply List.ext_getElem?
      intro i
      by_cases hi : k.toNat = i
      · subst hi
        simp [State.slotAt, List.getD_eq_getElem?_getD, hl]
      · rw [List.getElem?_set_ne hi]
    · exact List.set_eq_of_length_le (Nat.le_of_not_lt hl)
  unfold State.setSlot
  rw [this]

/-! ## Sequencing -/

theorem Res.bind_eq_ok {α β : Type} (r : Res α) (k : α → State → Res β) (b : β) (t : State) :
    r.bind k = .ok b t ↔ ∃ a s, r = .ok a s ∧ k a s = .ok b t := by
  cases r <;> simp [Res.bind]

theorem Res.bind_eq_err {α β : Type} (r : Res α) (k : α → State → Res β) (e : CoreError) (t : State) :
    r.bind k = .err e t ↔ r = .err e t ∨ ∃ a s, r = .ok a s ∧ k a s = .err e t := by
  cases r <;> simp [Res.bind]

theorem Res.bind_eq_stop {α β : Type} (r : Res α) (k : α → State → Res β) (f : Fault) :
    r.bind k = .stop f ↔ r = .stop f ∨ ∃ a s, r = .ok a s ∧ k a s = .stop f := by
  cases r <;> simp [Res.bind]

/-! ## Requests to the entropy source -/

/-- One request: the next answer, and the state one request further. -/
theorem takeAnswer_eq (s : State) : s.takeAnswer = (answerAt s 0, afterAnswers s 1) := by
  unfold State.takeAnswer answerAt afterAnswers
  cases h : s.entropy <;> simp

theorem afterAnswers_zero (s : State) : afterAnswers s 0 = s := rfl

theorem afterAnswers_add (s : State) (n m : Nat) : afterAnswers (afterAnswers s n) m = afterAnswers s (n + m) := by
  simp [afterAnswers, List.drop_drop, Nat.add_assoc]

theorem answerAt_afterAnswers (s : State) (n j : Nat) : answerAt (afterAnswers s n) j = answerAt s (n + j) := by
  simp only [answerAt, afterAnswers, List.getElem?_drop, Nat.add_assoc]

theorem drawn_afterAnswers (s : State) (n j k : Nat) : drawn (afterAnswers s n) j k = drawn s (n + j) k := by
  simp only [drawn, answerAt_afterAnswers]

/-- A request answered. -/
theorem fill_of_some (k : SlotIx) (n : Nat) (s : State) (h : (answerAt s 0).isSome = true) :
    fill k n s = .ok (drawn s 0 n) (afterAnswers s 1) := by
  obtain ⟨v, hv⟩ := Option.isSome_iff_exists.1 h
  simp only [fill, takeAnswer_eq, drawn, hv, Option.getD_some]

/-- A request that fails is spent. -/
theorem fill_of_none (k : SlotIx) (n : Nat) (s : State) (h : answerAt s 0 = none) :
    fill k n s = .err (.entropy k) (afterAnswers s 1) := by
  simp only [fill, takeAnswer_eq, h]

/-- Everything one request can do. -/
theorem fill_cases (k : SlotIx) (n : Nat) (s : State) :
    ((answerAt s 0).isSome = true ∧ fill k n s = .ok (drawn s 0 n) (afterAnswers s 1)) ∨
      (answerAt s 0 = none ∧ fill k n s = .err (.entropy k) (afterAnswers s 1)) := by
  cases h : answerAt s 0 with
  | none => exact .inr ⟨rfl, fill_of_none k n s h⟩
  | some v => exact .inl ⟨rfl, fill_of_some k n s (by simp [h])⟩

theorem answersOk_succ (s : State) (n : Nat) :
    answersOk s (n + 1) ↔ (answerAt s 0).isSome = true ∧ answersOk (afterAnswers s 1) n := by
  constructor
  · intro h
    refine ⟨h 0 (by omega), fun j hj => ?_⟩
    rw [answerAt_afterAnswers, Nat.add_comm]
    exact h (j + 1) (by omega)
  · rintro ⟨h0, h⟩ j hj
    cases j with
    | zero => exact h0
    | succ j =>
      have := h j (by omega)
      rwa [answerAt_afterAnswers, Nat.add_comm] at this

/-! ## Reads -/

/-- Everything a read of `MEM` can do: the bytes and the same state, or the model's stop. -/
theorem readBytes_cases (a n : Nat) (s : State) :
    (∃ bs, memRead s.mem a n = .ok bs ∧ readBytes a n s = .ok bs s) ∨
      (∃ x, memRead s.mem a n = .error x ∧ readBytes a n s = .stop (.unwrittenRead x)) := by
  unfold readBytes
  cases h : memRead s.mem a n with
  | ok bs => exact .inl ⟨bs, rfl, rfl⟩
  | error x => exact .inr ⟨x, rfl, rfl⟩

theorem readBytes_of_readable (a n : Nat) (s : State) (h : readable s a n) :
    readBytes a n s = .ok (bytesAt s a n) s := by
  unfold readBytes
  rw [memRead_of_readable s a n h]

/-! ## Checks -/

theorem firstFailure_eq_none (l : List (Bool × CoreError)) : firstFailure l = none ↔ ∀ c ∈ l, c.1 = false := by
  induction l with
  | nil => simp [firstFailure]
  | cons c l ih =>
    obtain ⟨b, e⟩ := c
    cases b <;> simp [firstFailure, ih]

/-- The error reported is the first whose check fails. -/
theorem firstFailure_eq_some (l : List (Bool × CoreError)) (e : CoreError) :
    firstFailure l = some e ↔ ∃ p q, l = p ++ (true, e) :: q ∧ ∀ c ∈ p, c.1 = false := by
  induction l with
  | nil => simp [firstFailure]
  | cons c l ih =>
    obtain ⟨b, e'⟩ := c
    cases b with
    | true =>
      simp only [firstFailure, if_true, Option.some.injEq]
      constructor
      · rintro rfl
        exact ⟨[], l, rfl, by simp⟩
      · rintro ⟨p, q, hl, hp⟩
        cases p with
        | nil => simp at hl; exact hl.1
        | cons c p =>
          simp only [List.cons_append, List.cons.injEq] at hl
          have := hp c (by simp)
          rw [← hl.1] at this
          cases this
    | false =>
      simp only [firstFailure, Bool.false_eq_true, if_false, ih]
      constructor
      · rintro ⟨p, q, rfl, hp⟩
        refine ⟨(false, e') :: p, q, rfl, fun c hc => ?_⟩
        rcases List.mem_cons.1 hc with rfl | hc
        · rfl
        · exact hp c hc
      · rintro ⟨p, q, hl, hp⟩
        cases p with
        | nil => simp at hl
        | cons c p =>
          simp only [List.cons_append, List.cons.injEq] at hl
          exact ⟨p, q, hl.2, fun c hc => hp c (by simp [hc])⟩

theorem firstFailure_append (l l' : List (Bool × CoreError)) :
    firstFailure (l ++ l') = (firstFailure l).or (firstFailure l') := by
  induction l with
  | nil => simp [firstFailure]
  | cons c l ih =>
    obtain ⟨b, e⟩ := c
    cases b <;> simp [firstFailure, ih]

/-! ## The frame of a command -/

theorem CoreError.code_pos (e : CoreError) : 1 ≤ e.code ∧ e.code ≤ 8 := by
  cases e <;> simp [CoreError.code]

theorem CoreError.sub_le (e : CoreError) : e.sub ≤ 5 := by
  cases e <;> simp [CoreError.sub]

theorem complete_none_eq (s : State) (op : Byte) : s.complete op none = s.ended op := rfl

theorem complete_some_eq (s : State) (op : Byte) (e : CoreError) :
    s.complete op (some e) = s.endedWith op e.code e.sub e.slot := by
  have := e.code_pos
  simp only [State.complete, State.endedWith]
  rw [if_neg (by omega)]
  rfl

/-- The taking of an error: the status registers written, and HALTED for `E_NOTABLES` sub 0. -/
theorem raise_eq (op : Byte) (e : CoreError) (s : State) :
    raise op e s =
      .next { s.endedWith op e.code e.sub e.slot with halted := s.halted || decide (e = .noTables) } := by
  simp only [raise, finish, complete_some_eq]
  congr 1
  unfold State.haltOn
  split <;> simp_all [State.endedWith]

theorem finish_ok (op : Byte) (s : State) : finish op (.ok () s) = .next (s.ended op) := rfl

theorem finish_err (op : Byte) (e : CoreError) (s : State) : finish op (.err e s) = raise op e s := rfl

theorem finish_stop (op : Byte) (f : Fault) : finish op (.stop f) = .fault f := rfl

/-- Everything a command's end can be. -/
theorem finish_eq_next (op : Byte) (r : Res Unit) (t : State) :
    finish op r = .next t ↔
      (∃ s, r = .ok () s ∧ t = s.ended op) ∨ (∃ e s, r = .err e s ∧ t = (s.complete op (some e)).haltOn e) := by
  cases r with
  | ok a s =>
    cases a
    simp [finish, complete_none_eq, eq_comm]
  | err e s =>
    simp only [finish, Host.Outcome.next.injEq, reduceCtorEq, false_and, exists_false, false_or]
    constructor
    · rintro rfl
      exact ⟨e, s, rfl, rfl⟩
    · rintro ⟨e', s', h, rfl⟩
      cases h
      rfl
  | stop f => simp [finish]

theorem finish_ne_refused (op : Byte) (r : Res Unit) (x : Refusal) : finish op r ≠ .refused x := by
  cases r <;> simp [finish]

/-- Everything a command can do: a check refuses it, or its body runs. -/
theorem runCommand_cases (op : Byte) (checks : List (Bool × CoreError)) (body : State → Res Unit) (s : State) :
    (∃ e, firstFailure (haltedCheck s :: checks) = some e ∧ runCommand op checks body s = raise op e s) ∨
      (firstFailure (haltedCheck s :: checks) = none ∧ runCommand op checks body s = finish op (body s)) := by
  unfold runCommand
  cases h : firstFailure (haltedCheck s :: checks) with
  | some e => exact .inl ⟨e, rfl, rfl⟩
  | none => exact .inr ⟨rfl, rfl⟩

/-! ## Re-masking -/

/-- The slot after re-masking with the answers from here on. -/
def remaskedSlot (s : State) (k : SlotIx) : Slot :=
  let sl := s.slotAt k
  let key := sl.remaskKey (drawn s 0 32)
  if sl.sched then
    if sl.alg = .magma then key.remaskMg (drawn s 1 32) (drawn s 2 32) else key.remaskKz (drawn s 1 160) (drawn s 2 160)
  else key

theorem slotAt_afterAnswers (s : State) (n : Nat) (k : SlotIx) : (afterAnswers s n).slotAt k = s.slotAt k := rfl

/-- Everything `remask` can do: all its requests are answered and the slot is re-masked, or the first that fails ends
it with no write. -/
theorem remask_cases (who k : SlotIx) (s : State) :
    (answersOk s (remaskDraws s k).length ∧
        remask who k s = .ok () ((afterAnswers s (remaskDraws s k).length).setSlot k (remaskedSlot s k))) ∨
      (∃ j < (remaskDraws s k).length, answersOk s j ∧ answerAt s j = none ∧
        remask who k s = .err (.entropy who) (afterAnswers s (j + 1))) := by
  unfold remask remaskDraws remaskedSlot
  rcases fill_cases who 32 s with ⟨h0, f0⟩ | ⟨h0, f0⟩
  swap
  · right
    refine ⟨0, ?_, fun j hj => by omega, h0, by rw [f0]; rfl⟩
    dsimp only
    split
    · split <;> simp
    · simp
  simp only [f0, Res.bind, slotAt_afterAnswers]
  by_cases hs : (s.slotAt k).sched = true
  swap
  · left
    simp only [hs, Bool.false_eq_true, if_false, List.length_singleton]
    exact ⟨fun j hj => by rwa [show j = 0 by omega], trivial⟩
  have one : answersOk s 1 := fun j hj => by rwa [show j = 0 by omega]
  simp only [hs, if_true]
  cases ha : (s.slotAt k).alg with
  | magma =>
    simp only [if_true, List.length_cons, List.length_nil]
    rcases fill_cases who 32 (afterAnswers s 1) with ⟨h1, f1⟩ | ⟨h1, f1⟩
    · rw [answerAt_afterAnswers] at h1
      rw [f1]
      simp only [afterAnswers_add, drawn_afterAnswers]
      rcases fill_cases who 32 (afterAnswers s 2) with ⟨h2, f2⟩ | ⟨h2, f2⟩
      · rw [answerAt_afterAnswers] at h2
        left
        rw [f2]
        simp only [afterAnswers_add, drawn_afterAnswers, slotAt_afterAnswers]
        refine ⟨fun j hj => ?_, trivial⟩
        interval_cases j <;> assumption
      · rw [answerAt_afterAnswers] at h2
        right
        refine ⟨2, by omega, fun j hj => ?_, h2, by rw [f2]; simp only [afterAnswers_add]⟩
        interval_cases j <;> assumption
    · rw [answerAt_afterAnswers] at h1
      right
      exact ⟨1, by omega, one, h1, by rw [f1]; simp only [afterAnswers_add]⟩
  | _ =>
    simp only [reduceCtorEq, if_false, List.length_cons, List.length_nil]
    rcases fill_cases who 160 (afterAnswers s 1) with ⟨h1, f1⟩ | ⟨h1, f1⟩
    · rw [answerAt_afterAnswers] at h1
      rw [f1]
      simp only [afterAnswers_add, drawn_afterAnswers]
      rcases fill_cases who 160 (afterAnswers s 2) with ⟨h2, f2⟩ | ⟨h2, f2⟩
      · rw [answerAt_afterAnswers] at h2
        left
        rw [f2]
        simp only [afterAnswers_add, drawn_afterAnswers, slotAt_afterAnswers]
        refine ⟨fun j hj => ?_, trivial⟩
        interval_cases j <;> assumption
      · rw [answerAt_afterAnswers] at h2
        right
        refine ⟨2, by omega, fun j hj => ?_, h2, by rw [f2]; simp only [afterAnswers_add]⟩
        interval_cases j <;> assumption
    · rw [answerAt_afterAnswers] at h1
      right
      exact ⟨1, by omega, one, h1, by rw [f1]; simp only [afterAnswers_add]⟩

/-! ## Runs of word draws -/

/-- Everything a run of n word draws can do. -/
theorem fillWords_cases (who : SlotIx) (n : Nat) (s : State) :
    (answersOk s n ∧ fillWords who n s = .ok ((List.range n).map fun j => drawn s j 4) (afterAnswers s n)) ∨
      (∃ j < n, answersOk s j ∧ answerAt s j = none ∧ fillWords who n s = .err (.entropy who) (afterAnswers s (j + 1))) := by
  induction n generalizing s with
  | zero => exact .inl ⟨fun j hj => by omega, rfl⟩
  | succ n ih =>
    rcases fill_cases who 4 s with ⟨h0, f0⟩ | ⟨h0, f0⟩
    · rcases ih (afterAnswers s 1) with ⟨hok, hf⟩ | ⟨j, hj, hok, hn, hf⟩
      · left
        refine ⟨(answersOk_succ s n).2 ⟨h0, hok⟩, ?_⟩
        simp only [fillWords, f0, Res.bind, hf, afterAnswers_add, drawn_afterAnswers, List.range_succ_eq_map,
          List.map_cons, List.map_map]
        rw [Nat.add_comm 1 n]
        simp only [Function.comp_def, Nat.succ_eq_add_one, Nat.add_comm 1]
      · right
        refine ⟨j + 1, by omega, (answersOk_succ s j).2 ⟨h0, hok⟩, ?_, ?_⟩
        · rwa [answerAt_afterAnswers, Nat.add_comm] at hn
        · simp only [fillWords, f0, Res.bind, hf, afterAnswers_add]
          rw [Nat.add_comm 1]
    · exact .inr ⟨0, by omega, fun j hj => by omega, h0, by simp only [fillWords, f0, Res.bind]⟩

/-! ## The exit re-masking of XTS -/

/-- What an attempt to re-mask slot k makes of the state: the slot re-masked, or requests spent and nothing else. -/
def AttemptedRemask (k : SlotIx) (s t : State) : Prop :=
  (answersOk s (remaskDraws s k).length ∧ t = (afterAnswers s (remaskDraws s k).length).setSlot k (remaskedSlot s k)) ∨
    ∃ j < (remaskDraws s k).length, answersOk s j ∧ answerAt s j = none ∧ t = afterAnswers s (j + 1)

theorem attemptAfter_remask (who k : SlotIx) (first : Option CoreError) (s : State)
    (c : Option CoreError → State → Res Unit) :
    ∃ t, AttemptedRemask k s t ∧
      (attemptAfter first (remask who k s) c = c first t ∨
        attemptAfter first (remask who k s) c = c (first.or (some (.entropy who))) t) := by
  rcases remask_cases who k s with ⟨h, h1⟩ | ⟨j, hj, hok, hn, h1⟩
  · exact ⟨_, .inl ⟨h, rfl⟩, .inl (by rw [h1]; rfl)⟩
  · exact ⟨_, .inr ⟨j, hj, hok, hn, rfl⟩, .inr (by rw [h1]; rfl)⟩

/-- Everything the exit re-masking can do: each slot is attempted in turn, and it reports no error, the first error of
what came before, or `E_ENTROPY` with the slot of `ks`. -/
theorem exitRemask_cases (o : XtsOperands) (first : Option CoreError) (s : State) :
    ∃ u t, AttemptedRemask o.ks s u ∧ AttemptedRemask o.kt u t ∧
      ((exitRemask o first s = .ok () t ∧ first = none) ∨
        ∃ e, exitRemask o first s = .err e t ∧ (first = some e ∨ (first = none ∧ e = .entropy o.ks))) := by
  obtain ⟨u, hu, h1⟩ := attemptAfter_remask o.ks o.ks first s
    fun e s => attemptAfter e (remask o.ks o.kt s) reportFirst
  have key : ∀ f, ∃ t, AttemptedRemask o.kt u t ∧
      (attemptAfter f (remask o.ks o.kt u) reportFirst = reportFirst f t ∨
        attemptAfter f (remask o.ks o.kt u) reportFirst = reportFirst (f.or (some (.entropy o.ks))) t) :=
    fun f => attemptAfter_remask o.ks o.kt f u reportFirst
  unfold exitRemask
  rcases h1 with h1 | h1 <;> obtain ⟨t, ht, h2⟩ := key _ <;> refine ⟨u, t, hu, ht, ?_⟩ <;> rw [h1] <;>
    rcases h2 with h2 | h2 <;> rw [h2] <;> cases first <;> simp [reportFirst, Option.or]

end Sys2Proof.Machine
end

