-- ==== Sys2Proof/Laws/Xts.lean ====
section
/-! SUPPORT. What the block commands' bodies and the parts of an XTS command can do, said once: their draws, what they
store, and where they stop. -/

namespace Sys2Proof.Machine

/-! ## The bodies of the single-block commands -/

/-- Everything the body of KZ.ENC or KZ.DEC can do. -/
theorem kzBlockBody_cases (f : Slot → Block → Block) (ks : SlotIx) (src dst : Addr) (s : State) :
    (∃ bs, memRead s.mem src.toNat 16 = .ok bs ∧
        kzBlockBody f ks src dst s =
          .ok () ((s.store dst.toNat (toBytes 16 (f (s.slotAt ks) (ofBytes 128 bs)))).setSlot ks
            ((s.slotAt ks).spend 1))) ∨
      (∃ x, memRead s.mem src.toNat 16 = .error x ∧ kzBlockBody f ks src dst s = .stop (.unwrittenRead x)) := by
  unfold kzBlockBody
  rcases readBytes_cases src.toNat 16 s with ⟨bs, h, hr⟩ | ⟨x, h, hr⟩ <;> rw [hr]
  · exact .inl ⟨bs, h, rfl⟩
  · exact .inr ⟨x, h, rfl⟩

/-- Everything the body of MG.ENC or MG.DEC can do. -/
theorem mgBlockBody_cases (ord : List Nat) (ks : SlotIx) (src dst : Addr) (s : State) :
    (answersOk s 32 ∧
      ((∃ bs, memRead s.mem src.toNat 8 = .ok bs ∧
          mgBlockBody ord ks src dst s =
            .ok () (((afterAnswers s 32).store dst.toNat (toBytes 8
              (mgCryptWith s.cfg.compat (s.slotAt ks).magmaArrays ord ((List.range 32).map fun j => drawn s j 4)
                (ofBytes 64 bs)))).setSlot ks ((s.slotAt ks).spend 1))) ∨
        (∃ x, memRead s.mem src.toNat 8 = .error x ∧ mgBlockBody ord ks src dst s = .stop (.unwrittenRead x)))) ∨
      (∃ j < 32, answersOk s j ∧ answerAt s j = none ∧
        mgBlockBody ord ks src dst s = .err (.entropy ks) (afterAnswers s (j + 1))) := by
  unfold mgBlockBody
  rcases fillWords_cases ks 32 s with ⟨hok, hf⟩ | ⟨j, hj, hok, hn, hf⟩ <;> rw [hf]
  · left
    refine ⟨hok, ?_⟩
    simp only [Res.bind]
    rcases readBytes_cases src.toNat 8 (afterAnswers s 32) with ⟨bs, h, hr⟩ | ⟨x, h, hr⟩ <;> rw [hr]
    · exact .inl ⟨bs, h, rfl⟩
    · exact .inr ⟨x, h, rfl⟩
  · exact .inr ⟨j, hj, hok, hn, rfl⟩

/-! ## Raw block operations -/

/-- How many requests one raw block operation under slot k makes (R169, R198). -/
def rawDraws (s : State) (k : SlotIx) : Nat :=
  if (s.slotAt k).alg = .magma then 32 else 0

/-- The output of one raw block operation with the answers from here on. -/
def rawOutput (dir : Direction) (s : State) (k : SlotIx) (x : Block) : Block :=
  if (s.slotAt k).alg = .magma then
    (mgCryptWith s.cfg.compat (s.slotAt k).magmaArrays (mgOrder dir) ((List.range 32).map fun j => drawn s j 4)
      (x.setWidth 64)).setWidth 128
  else
    match dir with
    | .encrypt => (s.slotAt k).kzEncrypt x
    | .decrypt => (s.slotAt k).kzDecrypt x

/-- Everything a raw block operation can do. -/
theorem rawBlock_cases (dir : Direction) (who k : SlotIx) (x : Block) (s : State) :
    (answersOk s (rawDraws s k) ∧
        rawBlock dir who k x s = .ok (rawOutput dir s k x) (afterAnswers s (rawDraws s k))) ∨
      (∃ j < rawDraws s k, answersOk s j ∧ answerAt s j = none ∧
        rawBlock dir who k x s = .err (.entropy who) (afterAnswers s (j + 1))) := by
  unfold rawBlock rawDraws rawOutput
  cases ha : (s.slotAt k).alg with
  | magma =>
    rcases fillWords_cases who 32 s with ⟨hok, hf⟩ | ⟨j, hj, hok, hn, hf⟩ <;> simp only [hf, Res.bind, if_true]
    · exact .inl ⟨hok, rfl⟩
    · exact .inr ⟨j, hj, hok, hn, rfl⟩
  | _ =>
    left
    simp only [reduceCtorEq, if_false]
    refine ⟨fun j hj => by omega, ?_⟩
    cases dir <;> rfl

/-- Everything the derivation of the initial tweak can do. -/
theorem initialTweak_cases (who kt : SlotIx) (x : Block) (s : State) :
    (∃ t, answersOk s (2 * rawDraws s kt) ∧ initialTweak who kt x s = .ok t (afterAnswers s (2 * rawDraws s kt))) ∨
      (∃ j < 2 * rawDraws s kt, answersOk s j ∧ answerAt s j = none ∧
        initialTweak who kt x s = .err (.entropy who) (afterAnswers s (j + 1))) := by
  unfold initialTweak
  cases ha : (s.slotAt kt).alg with
  | magma =>
    have hd : rawDraws s kt = 32 := by simp [rawDraws, ha]
    have hd' : rawDraws (afterAnswers s 32) kt = 32 := hd
    simp only [hd]
    rcases rawBlock_cases .encrypt who kt (x &&& 0xFFFFFFFFFFFFFFFF) s with ⟨hok, hf⟩ | ⟨j, hj, hok, hn, hf⟩ <;>
      rw [hf] <;> simp only [Res.bind, hd] at *
    · generalize rawOutput .encrypt s kt (x &&& 0xFFFFFFFFFFFFFFFF) = lo
      rcases rawBlock_cases .encrypt who kt ((x >>> 64) ^^^ lo) (afterAnswers s 32) with
        ⟨hok', hf'⟩ | ⟨j, hj, hok', hn, hf'⟩ <;> rw [hf'] <;> simp only [hd', afterAnswers_add] at *
      · refine .inl ⟨_, fun j hj => ?_, rfl⟩
        rcases Nat.lt_or_ge j 32 with h | h
        · exact hok j h
        · have := hok' (j - 32) (by omega)
          rwa [answerAt_afterAnswers, show 32 + (j - 32) = j by omega] at this
      · refine .inr ⟨32 + j, by omega, fun i hi => ?_, ?_, rfl⟩
        · rcases Nat.lt_or_ge i 32 with h | h
          · exact hok i h
          · have := hok' (i - 32) (by omega)
            rwa [answerAt_afterAnswers, show 32 + (i - 32) = i by omega] at this
        · rwa [answerAt_afterAnswers] at hn
    · exact .inr ⟨j, by omega, hok, hn, rfl⟩
  | _ =>
    have hd : rawDraws s kt = 0 := by simp [rawDraws, ha]
    rcases rawBlock_cases .encrypt who kt x s with ⟨hok, hf⟩ | ⟨j, hj, hok, hn, hf⟩
    · refine .inl ⟨rawOutput .encrypt s kt x, ?_, ?_⟩
      · simpa [hd] using hok
      · simpa [hd] using hf
    · omega

/-! ## The data blocks -/

/-- Everything the run of data blocks can do: it changes nothing but the bytes from its first destination block on and
the source's position, and it stops only at a byte nothing has written. -/
theorem xtsBlocks_cases (dir : Direction) (ks : SlotIx) (src dst bd m n : Nat) (x : Block) (s : State) :
    (∃ mem', (∀ a, ¬ within a (dst + bd * n) (bd * m) → memByte mem' a = memByte s.mem a) ∧
        (s.mem.wf = true → Memory.wf mem' = true) ∧
        ((answersOk s (m * rawDraws s ks) ∧
            xtsBlocks dir ks src dst bd m n x s =
              .ok () { afterAnswers s (m * rawDraws s ks) with mem := mem' }) ∨
          (∃ j < m * rawDraws s ks, answersOk s j ∧ answerAt s j = none ∧
            xtsBlocks dir ks src dst bd m n x s =
              .err (.entropy ks) { afterAnswers s (j + 1) with mem := mem' }))) ∨
      (∃ y, xtsBlocks dir ks src dst bd m n x s = .stop (.unwrittenRead y)) := by
  induction m generalizing n x s with
  | zero => exact .inl ⟨s.mem, fun _ _ => rfl, id, .inl ⟨fun j hj => by omega, by simp [xtsBlocks, afterAnswers]⟩⟩
  | succ m ih =>
    simp only [xtsBlocks]
    rcases readBytes_cases (src + bd * n) bd s with ⟨bs, -, hr⟩ | ⟨y, -, hr⟩ <;> rw [hr] <;> simp only [Res.bind]
    swap
    · exact .inr ⟨y, rfl⟩
    rcases rawBlock_cases dir ks ks (ofBytes 128 bs ^^^ blockTweak bd n x) s with ⟨hok, hf⟩ | ⟨j, hj, hok, hn, hf⟩ <;>
      rw [hf] <;> simp only []
    swap
    · refine .inl ⟨s.mem, fun _ _ => rfl, id, .inr ⟨j, ?_, hok, hn, rfl⟩⟩
      rw [Nat.add_mul]
      omega
    generalize hs' : (afterAnswers s (rawDraws s ks)).store (dst + bd * n) _ = s'
    have hd : rawDraws s' ks = rawDraws s ks := by subst hs'; rfl
    have hmem : ∀ a, ¬ within a (dst + bd * n) bd → memByte s'.mem a = memByte s.mem a := by
      intro a ha
      subst hs'
      exact memByte_store_of_not_within _ _ _ _ (by simpa [length_toBytes] using ha)
    have hwf : s.mem.wf = true → s'.mem.wf = true := by
      subst hs'
      exact wf_store _ _ _
    have hans : ∀ j, answerAt s' j = answerAt s (rawDraws s ks + j) := by
      subst hs'
      exact answerAt_afterAnswers s _
    have hnext : ∀ c mem', ({ afterAnswers s' c with mem := mem' } : State) =
        { afterAnswers s (rawDraws s ks + c) with mem := mem' } := by
      intro c mem'
      subst hs'
      rw [← afterAnswers_add]
      rfl
    have hall : ∀ c, answersOk s' c → answersOk s (rawDraws s ks + c) := by
      intro c hc j hj
      rcases Nat.lt_or_ge j (rawDraws s ks) with h | h
      · exact hok j h
      · have := hc (j - rawDraws s ks) (by omega)
        rwa [hans, show rawDraws s ks + (j - rawDraws s ks) = j by omega] at this
    rcases ih (n + 1) (advanceTweak bd n x) s' with ⟨mem', hframe, hkeep, h⟩ | ⟨y, hy⟩
    swap
    · exact .inr ⟨y, hy⟩
    refine .inl ⟨mem', fun a ha => ?_, fun h => hkeep (hwf h), ?_⟩
    · rw [Nat.mul_add bd m 1, Nat.mul_one] at ha
      have e : bd * (n + 1) = bd * n + bd := by rw [Nat.mul_add, Nat.mul_one]
      unfold within at *
      rw [hframe a (by omega), hmem a (by omega)]
    · rw [Nat.add_mul, Nat.one_mul]
      rcases h with ⟨h1, h2⟩ | ⟨j, hj, h1, h2, h3⟩
      · refine .inl ⟨?_, ?_⟩
        · rw [Nat.add_comm]
          exact hall _ (by rwa [hd] at h1)
        · rw [h2, hd, hnext, Nat.add_comm]
      · refine .inr ⟨rawDraws s ks + j, ?_, hall j h1, ?_, ?_⟩
        · rw [hd] at hj
          omega
        · rwa [hans] at h2
        · rw [h3, hnext, Nat.add_assoc]

end Sys2Proof.Machine
end

