-- ==== Sys2Proof/Laws/Checks.lean ====
section
/-! SUPPORT. Every command is one frame around its checks and its body, and its checks are the global order's (R217). -/

namespace Sys2Proof.Machine

/-! ## The checks and the body of each command -/

/-- The checks of a command as its meaning lists them, after the refusal while HALTED. -/
def commandChecks (s : State) : Instr → List (Bool × CoreError)
  | .gfmul _ _ dst => [dstCheck s dst 1]
  | .tbuild => []
  | .kcreate ks alg =>
    [slotCheck s ks, (decide ((s.slotAt ks).alg ≠ .empty), .occupied ks),
      (decide (algOfByte alg = none), .badAlgorithm ks)]
  | .kload ks src => [slotCheck s ks, emptyCheck s ks, ((s.slotAt ks).icodeSet, .alreadyLoaded ks), srcCheck s src 32]
  | .ksetmask ks => [slotCheck s ks, emptyCheck s ks]
  | .kunmask ks => [slotCheck s ks, emptyCheck s ks]
  | .kseticode ks => [slotCheck s ks, emptyCheck s ks]
  | .kchkicode ks => [slotCheck s ks, emptyCheck s ks] ++ keyChecks s ks
  | .kdestroy ks => [slotCheck s ks, emptyCheck s ks]
  | .kzSched ks => [slotCheck s ks, emptyCheck s ks, engineCheck s ks .kuz] ++ keyChecks s ks
  | .kzEnc ks src dst => kzBlockChecks ks src dst s
  | .kzDec ks src dst => kzBlockChecks ks src dst s
  | .kzRemask ks => [slotCheck s ks, emptyCheck s ks, engineCheck s ks .kuz, schedCheck s ks]
  | .kzDelkeys ks => [slotCheck s ks, emptyCheck s ks, engineCheck s ks .kuz]
  | .mgSched ks => [slotCheck s ks, emptyCheck s ks, engineCheck s ks .magma] ++ keyChecks s ks
  | .mgEnc ks src dst => mgBlockChecks ks src dst s
  | .mgDec ks src dst => mgBlockChecks ks src dst s
  | .mgRemask ks => [slotCheck s ks, emptyCheck s ks, engineCheck s ks .magma, schedCheck s ks]
  | .mgDelkeys ks => [slotCheck s ks, emptyCheck s ks, engineCheck s ks .magma]
  | .xtsEnc ks kt src dst len iv ivlen => xtsChecks ⟨ks, kt, src, dst, len, iv, ivlen⟩ s
  | .xtsDec ks kt src dst len iv ivlen => xtsChecks ⟨ks, kt, src, dst, len, iv, ivlen⟩ s

/-- Every command is the common frame around its checks and some body. -/
theorem exec_eq_runCommand (i : Instr) (s : State) :
    ∃ body, exec i s = runCommand (opcodeOf i) (commandChecks s i) body s := by
  cases i <;>
    simp only [exec, execGfmul, execTbuild, execKcreate, execKload, execKsetmask, execKunmask, execKseticode, execKchkicode,
      execKdestroy, execKzSched, execKzEnc, execKzDec, execKzRemask, execKzDelkeys, execMgSched, execMgEnc, execMgDec,
      execMgRemask, execMgDelkeys, execXtsEnc, execXtsDec, opcodeOf, commandChecks] <;>
    exact ⟨_, rfl⟩

/-! ## The same checks in the words of the global order -/

theorem not_slotBelow_eq (n : Nat) (k : SlotIx) : (!slotBelow n k) = decide (n ≤ k.toNat) := by
  by_cases h : k.toNat < n
  · simp [slotBelow, h]
  · simp only [slotBelow, decide_eq_false h, Bool.not_false]
    exact (decide_eq_true (Nat.le_of_not_lt h)).symm

theorem beyond_eq_outsideMem (s : State) (a : Addr) (n : Nat) : beyond s a n = outsideMem s a n := by
  by_cases h : n = 0
  · simp [beyond, outsideMem, h]
  · simp [beyond, outsideMem, Nat.pos_of_ne_zero h, bne_iff_ne.2 h]

theorem res_zero_eq_resourceShort (s : State) (k : SlotIx) : decide ((s.slotAt k).res = 0) = resourceShort s k 1 := by
  simp only [resourceShort, decide_eq_decide]
  constructor
  · intro h
    rw [h]
    decide
  · intro h
    exact BitVec.eq_of_toNat_eq (Nat.lt_one_iff.1 h)

theorem badAlgorithm_eq (alg : Byte) :
    (decide (alg ≠ 1) && decide (alg ≠ 2)) = decide (algOfByte alg = none) := by
  by_cases h : alg = 1
  · simp [algOfByte, h]
  · by_cases h2 : alg = 2
    · simp [algOfByte, h2]
    · have : algOfByte alg = none := by
        unfold algOfByte
        rw [if_neg h, if_neg h2]
      simp only [this, decide_true, ne_eq, h, h2, not_false_eq_true, Bool.and_self]

theorem sizeOfSlotBlock_eq (s : State) (k : SlotIx) : sizeOfSlotBlock s k = blockSize (s.slotAt k).alg := by
  unfold sizeOfSlotBlock blockSize
  cases (s.slotAt k).alg <;> rfl

theorem tweakCost_eq (s : State) (k : SlotIx) : tweakCost s k = tweakBlocks (s.slotAt k).alg := by
  unfold tweakCost tweakBlocks
  cases (s.slotAt k).alg <;> rfl

theorem beq_eq_decide {α : Type} [DecidableEq α] (a b : α) : (a == b) = decide (a = b) := by
  by_cases h : a = b <;> simp [h]

theorem bne_eq_decide {α : Type} [DecidableEq α] (a b : α) : (a != b) = decide (a ≠ b) := by
  by_cases h : a = b <;> simp [h]

/-- The checks a meaning lists are steps 1 to 8 of R217 for its command. -/
theorem refusalOf_eq (i : Instr) (s : State) : refusalOf i s = firstFailure (haltedCheck s :: commandChecks s i) := by
  cases i <;>
    simp only [refusalOf, commandChecks, slotFields, emptyStep, needsKey, configStep, engineOf, needsSchedule, lengthStep,
      tablesStep, integrityStep, resourceStep, keyStep, keyChecks, haltedCheck, slotCheck, emptyCheck, engineCheck,
      schedCheck, srcCheck, dstCheck, ivCheck, roundKeyCheck, kzBlockChecks, mgBlockChecks, xtsChecks, xtsBlockSize,
      xtsDataBlocks, xtsTweakBlocks, resourceShort, not_slotBelow_eq, beyond_eq_outsideMem, res_zero_eq_resourceShort,
      badAlgorithm_eq, sizeOfSlotBlock_eq, tweakCost_eq, beq_eq_decide, bne_eq_decide, List.map_cons, List.map_nil,
      List.filterMap_cons, List.filterMap_nil, Option.map_none, Option.map_some, List.append_nil, List.nil_append,
      List.cons_append, if_true, if_false, Bool.false_eq_true] <;>
    rfl

/-- The order of checks is decisive: a command whose checks pass ends as its body does. -/
theorem runCommand_of_none (op : Byte) (checks : List (Bool × CoreError)) (body : State → Res Unit) (s : State)
    (h : firstFailure (haltedCheck s :: checks) = none) : runCommand op checks body s = finish op (body s) := by
  unfold runCommand
  rw [h]

end Sys2Proof.Machine
end

