-- ==== Sys2Proof/Laws/Decode.lean ====
section
/-! SUPPORT. The nine fields of a descriptor and the descriptor of nine fields undo each other (R65, R66). -/

namespace Sys2Proof

theorem extractLsb'_append_high {n m : Nat} (x : BitVec n) (y : BitVec m) (k l : Nat) :
    (x ++ y).extractLsb' (m + k) l = x.extractLsb' k l := by
  apply BitVec.eq_of_getLsbD_eq
  intro i hi
  simp only [BitVec.getLsbD_extractLsb', BitVec.getLsbD_append]
  rw [if_neg (by omega), show m + k + i - m = k + i by omega]

theorem extractLsb'_append_low {n m : Nat} (x : BitVec n) (y : BitVec m) : (x ++ y).extractLsb' 0 m = y := by
  apply BitVec.eq_of_getLsbD_eq
  intro i hi
  simp [BitVec.getLsbD_append, hi]

theorem extractLsb'_self {n : Nat} (x : BitVec n) : x.extractLsb' 0 n = x := by
  apply BitVec.eq_of_getLsbD_eq
  intro i hi
  simp [hi]

theorem append_extractLsb' {n : Nat} (d : BitVec n) (k m l : Nat) :
    d.extractLsb' (k + m) l ++ d.extractLsb' k m = d.extractLsb' k (l + m) := by
  apply BitVec.eq_of_getLsbD_eq
  intro i hi
  simp only [BitVec.getLsbD_extractLsb', BitVec.getLsbD_append]
  split
  · simp [*]
  · rw [decide_eq_true (by omega : i - m < l), decide_eq_true hi, show k + m + (i - m) = k + i by omega]

theorem fieldsOf_packFields (f : Fields) : fieldsOf (packFields f) = f := by
  obtain ⟨op, ks, kt, a, b, src, dst, len, iv⟩ := f
  simp only [fieldsOf, packFields, Fields.mk.injEq]
  refine ⟨?_, ?_, ?_, ?_, ?_, ?_, ?_, ?_, extractLsb'_append_low _ _⟩
  · exact (extractLsb'_append_high (m := 32) _ iv 120 8).trans <| (extractLsb'_append_high (m := 32) _ len 88 8).trans <|
      (extractLsb'_append_high (m := 32) _ dst 56 8).trans <| (extractLsb'_append_high (m := 32) _ src 24 8).trans <|
      (extractLsb'_append_high (m := 8) _ b 16 8).trans <| (extractLsb'_append_high (m := 8) _ a 8 8).trans <|
      (extractLsb'_append_high (m := 4) _ kt 4 8).trans <| (extractLsb'_append_high (m := 4) _ ks 0 8).trans <|
      extractLsb'_self op
  · exact (extractLsb'_append_high (m := 32) _ iv 116 4).trans <| (extractLsb'_append_high (m := 32) _ len 84 4).trans <|
      (extractLsb'_append_high (m := 32) _ dst 52 4).trans <| (extractLsb'_append_high (m := 32) _ src 20 4).trans <|
      (extractLsb'_append_high (m := 8) _ b 12 4).trans <| (extractLsb'_append_high (m := 8) _ a 4 4).trans <|
      (extractLsb'_append_high (m := 4) _ kt 0 4).trans <| extractLsb'_append_low _ _
  · exact (extractLsb'_append_high (m := 32) _ iv 112 4).trans <| (extractLsb'_append_high (m := 32) _ len 80 4).trans <|
      (extractLsb'_append_high (m := 32) _ dst 48 4).trans <| (extractLsb'_append_high (m := 32) _ src 16 4).trans <|
      (extractLsb'_append_high (m := 8) _ b 8 4).trans <| (extractLsb'_append_high (m := 8) _ a 0 4).trans <|
      extractLsb'_append_low _ _
  · exact (extractLsb'_append_high (m := 32) _ iv 104 8).trans <| (extractLsb'_append_high (m := 32) _ len 72 8).trans <|
      (extractLsb'_append_high (m := 32) _ dst 40 8).trans <| (extractLsb'_append_high (m := 32) _ src 8 8).trans <|
      (extractLsb'_append_high (m := 8) _ b 0 8).trans <| extractLsb'_append_low _ _
  · exact (extractLsb'_append_high (m := 32) _ iv 96 8).trans <| (extractLsb'_append_high (m := 32) _ len 64 8).trans <|
      (extractLsb'_append_high (m := 32) _ dst 32 8).trans <| (extractLsb'_append_high (m := 32) _ src 0 8).trans <|
      extractLsb'_append_low _ _
  · exact (extractLsb'_append_high (m := 32) _ iv 64 32).trans <| (extractLsb'_append_high (m := 32) _ len 32 32).trans <|
      (extractLsb'_append_high (m := 32) _ dst 0 32).trans <| extractLsb'_append_low _ _
  · exact (extractLsb'_append_high (m := 32) _ iv 32 32).trans <| (extractLsb'_append_high (m := 32) _ len 0 32).trans <|
      extractLsb'_append_low _ _
  · exact (extractLsb'_append_high (m := 32) _ iv 0 32).trans <| extractLsb'_append_low _ _

theorem packFields_fieldsOf (d : Descriptor) : packFields (fieldsOf d) = d := by
  unfold packFields fieldsOf
  dsimp only
  rw [append_extractLsb' d 148 4 8, append_extractLsb' d 144 4 12, append_extractLsb' d 136 8 16,
    append_extractLsb' d 128 8 24, append_extractLsb' d 96 32 32, append_extractLsb' d 64 32 64,
    append_extractLsb' d 32 32 96, append_extractLsb' d 0 32 128]
  exact extractLsb'_self d

end Sys2Proof
end

