-- ==== Sys2Proof/Laws/Slots.lean ====
section
/-! SUPPORT. The true key under each slot update, and the slot invariants (R32) of the slots KCREATE, KLOAD and the
schedules make. -/

namespace Sys2Proof.Machine

/-- Unmasking undoes masking in both families (R18). -/
theorem maskOff_maskOn (alg : Alg) (v m : KeyBytes) : maskOff alg (maskOn alg v m) m = v := by
  cases alg with
  | magma =>
    refine key_ext _ _ fun j hj => ?_
    simp only [maskOff, maskOn]
    rw [keyWord_keyOfWords _ _ hj, keyWord_keyOfWords _ _ hj, BitVec.add_sub_cancel]
  | _ => simp [maskOff, maskOn]

theorem trueKey_created (sl : Slot) (a : Alg) (m : KeyBytes) (r : BitVec 64) : (sl.created a m r).trueKey = 0 := by
  simp only [Slot.trueKey, Slot.created_alg, Slot.created_raw, Slot.created_mask]
  cases a with
  | magma =>
    refine key_ext _ _ fun j hj => ?_
    simp only [maskOff]
    rw [keyWord_keyOfWords _ _ hj, BitVec.sub_self]
    simp [keyWord]
  | _ => simp [maskOff]

theorem trueKey_loaded (sl : Slot) (v : KeyBytes) : (sl.loaded v).trueKey = v := by
  simp only [Slot.trueKey, Slot.loaded_alg, Slot.loaded_raw, Slot.loaded_mask]
  exact maskOff_maskOn _ _ _

theorem trueKey_kzScheduled (sl : Slot) (d1 d2 : BitVec 1280) : (sl.kzScheduled d1 d2).trueKey = sl.trueKey := rfl

theorem trueKey_mgScheduled (sl : Slot) (c : Bool) (d1 d2 : KeyBytes) : (sl.mgScheduled c d1 d2).trueKey = sl.trueKey :=
  rfl

theorem length_kzRoundKeys (key : KeyBytes) : (kzRoundKeys key).length = 10 := by
  simp [kzRoundKeys, kzGroupKeys]

theorem length_kzDecKeys (ks : List Block) : (kzDecKeys ks).length = ks.length := by
  cases ks <;> simp [kzDecKeys]

theorem length_mgKeyWords (c : Bool) (key : KeyBytes) : (mgKeyWords c key).length = 8 := by simp [mgKeyWords]

theorem length_negWords (ks : List Word) : (negWords ks).length = ks.length := by simp [negWords]

theorem inv_blank (c : Bool) : Slot.blank.Inv c := by
  constructor <;> simp [Slot.blank]

/-- The slot KCREATE makes meets R32. -/
theorem inv_created (c : Bool) (sl : Slot) (a : Alg) (m : KeyBytes) (r : BitVec 64) (h : sl.Inv c) (ha : a ≠ .empty)
    (hr : r.toNat < 2 ^ 63) : (sl.created a m r).Inv c where
  empty_clear e := absurd e ha
  unmasked_zero e := by simp at e
  code_matches e := by simp at e
  kuz_schedule e := by simp at e
  magma_schedule e := by simp at e
  sched_certified e := by simp at e
  kuz_sizes := h.kuz_sizes
  magma_sizes := h.magma_sizes
  res_bounded := hr

/-- The slot KLOAD leaves meets R32: it is refused on a slot whose ICODE is set, so on a scheduled one. -/
theorem inv_loaded (c : Bool) (sl : Slot) (v : KeyBytes) (h : sl.Inv c) (ha : sl.alg ≠ .empty) (hi : sl.icodeSet = false) :
    (sl.loaded v).Inv c where
  empty_clear e := absurd e ha
  unmasked_zero := h.unmasked_zero
  code_matches _ := by rw [trueKey_loaded]; rfl
  kuz_schedule e := by simp [h.sched_certified e] at hi
  magma_schedule e := by simp [h.sched_certified e] at hi
  sched_certified _ := rfl
  kuz_sizes := h.kuz_sizes
  magma_sizes := h.magma_sizes
  res_bounded := h.res_bounded

/-- The slot KZ.SCHED leaves meets R32. -/
theorem inv_kzScheduled (c : Bool) (sl : Slot) (d1 d2 : BitVec 1280) (h : sl.Inv c) (ha : sl.alg = .kuz)
    (hi : sl.icodeSet = true) : (sl.kzScheduled d1 d2).Inv c where
  empty_clear e := absurd (ha.symm.trans e) (by decide)
  unmasked_zero := h.unmasked_zero
  code_matches := h.code_matches
  kuz_schedule _ _ := by
    rw [trueKey_kzScheduled]
    refine ⟨xorBlocks_cancel _ _ ?_, xorBlocks_cancel _ _ ?_, rfl⟩
    · simp [length_kzRoundKeys, length_drawBlocks]
    · simp [length_kzDecKeys, length_kzRoundKeys, length_drawBlocks]
  magma_schedule _ e := absurd (ha.symm.trans e) (by decide)
  sched_certified _ := hi
  kuz_sizes := by simp [length_xorBlocks, length_kzDecKeys, length_kzRoundKeys, length_drawBlocks]
  magma_sizes := h.magma_sizes
  res_bounded := h.res_bounded

/-- The slot MG.SCHED leaves meets R32. -/
theorem inv_mgScheduled (c : Bool) (sl : Slot) (d1 d2 : KeyBytes) (h : sl.Inv c) (ha : sl.alg = .magma)
    (hi : sl.icodeSet = true) : (sl.mgScheduled c d1 d2).Inv c where
  empty_clear e := absurd (ha.symm.trans e) (by decide)
  unmasked_zero := h.unmasked_zero
  code_matches := h.code_matches
  kuz_schedule _ e := absurd (ha.symm.trans e) (by decide)
  magma_schedule _ _ := by
    rw [trueKey_mgScheduled]
    refine ⟨subWords_addWords _ _ ?_, subWords_addWords _ _ ?_, rfl⟩
    · simp [length_mgKeyWords, length_drawWords]
    · simp [length_negWords, length_mgKeyWords, length_drawWords]
  sched_certified _ := hi
  kuz_sizes := h.kuz_sizes
  magma_sizes := by simp [length_addWords, length_negWords, length_mgKeyWords, length_drawWords]
  res_bounded := h.res_bounded

end Sys2Proof.Machine
end

