-- ==== Sys2Proof/Laws/ExitRemask.lean ====
section
/-! SUPPORT. Re-masking in the terms of Safety's `afterRemask`: the fields of a freshly masked slot, and that `remask` on a
scheduled slot is one of its two cases (R107, R202). -/

namespace Sys2Proof.Machine

/-! ## The fields of a freshly masked slot -/

@[simp] theorem freshlyMasked_alg (s : State) (j : Nat) (sl : Slot) : (freshlyMasked s j sl).alg = sl.alg := by
  unfold freshlyMasked
  split <;> rfl

@[simp] theorem freshlyMasked_raw (s : State) (j : Nat) (sl : Slot) :
    (freshlyMasked s j sl).raw = maskOn sl.alg sl.trueKey (drawn s j 32) := by
  unfold freshlyMasked
  split <;> rfl

@[simp] theorem freshlyMasked_mask (s : State) (j : Nat) (sl : Slot) : (freshlyMasked s j sl).mask = drawn s j 32 := by
  unfold freshlyMasked
  split <;> rfl

@[simp] theorem freshlyMasked_masked (s : State) (j : Nat) (sl : Slot) : (freshlyMasked s j sl).masked = true := by
  unfold freshlyMasked
  split <;> rfl

@[simp] theorem freshlyMasked_icodeSet (s : State) (j : Nat) (sl : Slot) :
    (freshlyMasked s j sl).icodeSet = sl.icodeSet := by
  unfold freshlyMasked
  split <;> rfl

@[simp] theorem freshlyMasked_sched (s : State) (j : Nat) (sl : Slot) : (freshlyMasked s j sl).sched = sl.sched := by
  unfold freshlyMasked
  split <;> rfl

@[simp] theorem freshlyMasked_icode (s : State) (j : Nat) (sl : Slot) : (freshlyMasked s j sl).icode = sl.icode := by
  unfold freshlyMasked
  split <;> rfl

@[simp] theorem freshlyMasked_res (s : State) (j : Nat) (sl : Slot) : (freshlyMasked s j sl).res = sl.res := by
  unfold freshlyMasked
  split <;> rfl

@[simp] theorem freshlyMasked_rkicode (s : State) (j : Nat) (sl : Slot) :
    (freshlyMasked s j sl).rkicode = sl.rkicode := by
  unfold freshlyMasked
  split <;> rfl

/-- Fresh masks leave the true key (R107). -/
@[simp] theorem trueKey_freshlyMasked (s : State) (j : Nat) (sl : Slot) : (freshlyMasked s j sl).trueKey = sl.trueKey := by
  unfold Slot.trueKey
  rw [freshlyMasked_alg, freshlyMasked_raw, freshlyMasked_mask, maskOff_maskOn]
  rfl

theorem afterRemask_of_answered {s : State} {j : Nat} (h : remaskAnswered s j = true) (sl : Slot) :
    afterRemask s j sl = freshlyMasked s j sl := if_pos h

theorem afterRemask_of_failed {s : State} {j : Nat} (h : remaskAnswered s j = false) (sl : Slot) :
    afterRemask s j sl = sl := by
  simp [afterRemask, h]

/-! ## The new mask on before the old one is off -/

theorem xorBlocks_right_comm (v m n : List Block) : xorBlocks (xorBlocks v n) m = xorBlocks (xorBlocks v m) n := by
  induction v generalizing m n with
  | nil => simp [xorBlocks]
  | cons a v ih =>
    cases m <;> cases n <;> simp [xorBlocks]
    exact ⟨by ac_rfl, ih _ _⟩

theorem subWords_addWords_comm (v m n : List Word) : subWords (addWords v n) m = addWords (subWords v m) n := by
  induction v generalizing m n with
  | nil => simp [subWords, addWords]
  | cons a v ih =>
    cases m <;> cases n <;> simp [subWords, addWords]
    exact ⟨by bv_omega, ih _ _⟩

/-- Putting a new mask on before the old one comes off gives the true value under the new mask (R107). -/
theorem maskOff_maskOn_comm (alg : Alg) (r m n : KeyBytes) :
    maskOff alg (maskOn alg r n) m = maskOn alg (maskOff alg r m) n := by
  cases alg with
  | magma =>
    refine key_ext _ _ fun j hj => ?_
    simp only [maskOff, maskOn]
    rw [keyWord_keyOfWords _ _ hj, keyWord_keyOfWords _ _ hj, keyWord_keyOfWords _ _ hj, keyWord_keyOfWords _ _ hj]
    bv_omega
  | _ =>
    simp only [maskOff, maskOn]
    ac_rfl

/-- An unmasked slot that meets its invariants holds the true key (R108). -/
theorem trueKey_of_unmasked {compat : Bool} {sl : Slot} (h : sl.Inv compat) (hm : sl.masked = false)
    (ha : sl.alg ≠ .empty) : sl.trueKey = sl.raw := by
  rw [Slot.trueKey, h.unmasked_zero hm ha]
  cases sl.alg with
  | magma =>
    refine key_ext _ _ fun j hj => ?_
    simp only [maskOff]
    rw [keyWord_keyOfWords _ _ hj]
    simp [keyWord]
  | _ => simp [maskOff]

/-- Re-masking a key puts its true value under the new mask. -/
theorem remaskKey_raw_of_inv {compat : Bool} {sl : Slot} (h : sl.Inv compat) (ha : sl.alg ≠ .empty) (m : KeyBytes) :
    (sl.remaskKey m).raw = maskOn sl.alg sl.trueKey m := by
  cases hm : sl.masked with
  | true => simp [Slot.remaskKey, hm, maskOff_maskOn_comm, Slot.trueKey]
  | false => simp [Slot.remaskKey, hm, trueKey_of_unmasked h hm ha]

/-- The slot `remask` leaves when every request is answered is the freshly masked slot. -/
theorem remaskedSlot_eq_freshlyMasked {compat : Bool} {s : State} {k : SlotIx} (h : (s.slotAt k).Inv compat)
    (hs : (s.slotAt k).sched = true) (ha : (s.slotAt k).alg ≠ .empty) :
    remaskedSlot s k = freshlyMasked s 0 (s.slotAt k) := by
  have hkey : (s.slotAt k).remaskKey (drawn s 0 32) =
      { s.slotAt k with
        raw := maskOn (s.slotAt k).alg (s.slotAt k).trueKey (drawn s 0 32), mask := drawn s 0 32, masked := true } := by
    rw [← remaskKey_raw_of_inv h ha]
    rfl
  unfold remaskedSlot freshlyMasked
  dsimp only
  rw [if_pos hs, hkey]
  split
  · simp only [Slot.remaskMg, mgRemaskKeys, subWords_addWords_comm, Nat.zero_add]
  · simp only [Slot.remaskKz, kzRemaskKeys, Nat.zero_add]
    rw [xorBlocks_right_comm, xorBlocks_right_comm (s.slotAt k).dk]

/-! ## `remask` on a scheduled slot -/

theorem length_remaskDraws_of_sched {s : State} {k : SlotIx} (hs : (s.slotAt k).sched = true) :
    (remaskDraws s k).length = 3 := by
  simp only [remaskDraws, hs, if_true]
  split <;> rfl

/-- The first failing request decides how many re-masking makes. -/
theorem remaskRequests_of_first_failure {s : State} {j : Nat} (hj : j < 3) (hok : answersOk s j)
    (hn : answerAt s j = none) : remaskAnswered s 0 = false ∧ remaskRequests s 0 = j + 1 := by
  have h : ∀ m < j, (answerAt s m).isNone = false := fun m hm => by
    have := hok m hm
    cases hv : answerAt s m <;> simp_all
  unfold remaskAnswered remaskRequests
  rcases j with _ | _ | _ | j
  · simp [hn]
  · simp [hn, h 0]
  · simp [hn, h 0, h 1]
  · omega

theorem remaskAnswered_of_answersOk {s : State} (h : answersOk s 3) :
    remaskAnswered s 0 = true ∧ remaskRequests s 0 = 3 := by
  have h0 := h 0 (by decide)
  have h1 := h 1 (by decide)
  have h2 := h 2 (by decide)
  unfold remaskAnswered remaskRequests
  simp [h0, h1, h2, Option.isSome_iff_ne_none.1 h0, Option.isSome_iff_ne_none.1 h1]

/-- The same re-masking seen n requests later. -/
theorem afterRemask_afterAnswers (s : State) (n j : Nat) (sl : Slot) :
    afterRemask (afterAnswers s n) j sl = afterRemask s (n + j) sl ∧
      remaskRequests (afterAnswers s n) j = remaskRequests s (n + j) := by
  simp only [afterRemask, remaskAnswered, remaskRequests, freshlyMasked, answerAt_afterAnswers, drawn_afterAnswers,
    Nat.add_assoc, and_self]

/-- Everything `remask` can do to a scheduled slot that meets its invariants: its three requests are answered and the slot
is freshly masked, or the first that fails ends it and the slot is as it was (R107). -/
theorem remask_scheduled (who k : SlotIx) {compat : Bool} {s : State} (h : (s.slotAt k).Inv compat)
    (hs : (s.slotAt k).sched = true) (ha : (s.slotAt k).alg ≠ .empty) :
    (remaskAnswered s 0 = true ∧
        remask who k s =
          .ok () ((afterAnswers s (remaskRequests s 0)).setSlot k (freshlyMasked s 0 (s.slotAt k)))) ∨
      (remaskAnswered s 0 = false ∧ remask who k s = .err (.entropy who) (afterAnswers s (remaskRequests s 0))) := by
  rcases remask_cases who k s with ⟨hok, h1⟩ | ⟨j, hj, hok, hn, h1⟩
  · rw [length_remaskDraws_of_sched hs] at hok h1
    obtain ⟨h2, h3⟩ := remaskAnswered_of_answersOk hok
    exact .inl ⟨h2, by rw [h1, h3, remaskedSlot_eq_freshlyMasked h hs ha]⟩
  · rw [length_remaskDraws_of_sched hs] at hj
    obtain ⟨h2, h3⟩ := remaskRequests_of_first_failure hj hok hn
    exact .inr ⟨h2, by rw [h1, h3]⟩

end Sys2Proof.Machine
end

