-- ==== Sys2Proof/Laws/PerInstr.lean ====
section
/-! SUPPORT. Statements made for all commands, one lemma per command; and the packing of fields into a descriptor. -/

namespace Sys2Proof.Laws

/-- The row of a command's opcode makes the command back from its operand fields, and those fields leave every field the
row's format does not use zero (R67, R69, R71). -/
def EncodeRow.Statement (i : Instr) : Prop :=
  ∃ r, opcodeRow (opcodeOf i) = some r ∧ r.build (operandFields i) = i ∧
    unusedZero r.format (operandFields i) = true ∧ (operandFields i).op = opcodeOf i

theorem EncodeRow.gfmul (x y : Byte) (dst : Addr) :
    EncodeRow.Statement (.gfmul x y dst) :=
  ⟨_, rfl, rfl, rfl, rfl⟩

theorem EncodeRow.tbuild :
    EncodeRow.Statement .tbuild :=
  ⟨_, rfl, rfl, rfl, rfl⟩

theorem EncodeRow.kcreate (ks : SlotIx) (alg : Byte) :
    EncodeRow.Statement (.kcreate ks alg) :=
  ⟨_, rfl, rfl, rfl, rfl⟩

theorem EncodeRow.kload (ks : SlotIx) (src : Addr) :
    EncodeRow.Statement (.kload ks src) :=
  ⟨_, rfl, rfl, rfl, rfl⟩

theorem EncodeRow.ksetmask (ks : SlotIx) :
    EncodeRow.Statement (.ksetmask ks) :=
  ⟨_, rfl, rfl, rfl, rfl⟩

theorem EncodeRow.kunmask (ks : SlotIx) :
    EncodeRow.Statement (.kunmask ks) :=
  ⟨_, rfl, rfl, rfl, rfl⟩

theorem EncodeRow.kseticode (ks : SlotIx) :
    EncodeRow.Statement (.kseticode ks) :=
  ⟨_, rfl, rfl, rfl, rfl⟩

theorem EncodeRow.kchkicode (ks : SlotIx) :
    EncodeRow.Statement (.kchkicode ks) :=
  ⟨_, rfl, rfl, rfl, rfl⟩

theorem EncodeRow.kdestroy (ks : SlotIx) :
    EncodeRow.Statement (.kdestroy ks) :=
  ⟨_, rfl, rfl, rfl, rfl⟩

theorem EncodeRow.kzSched (ks : SlotIx) :
    EncodeRow.Statement (.kzSched ks) :=
  ⟨_, rfl, rfl, rfl, rfl⟩

theorem EncodeRow.kzEnc (ks : SlotIx) (src dst : Addr) :
    EncodeRow.Statement (.kzEnc ks src dst) :=
  ⟨_, rfl, rfl, rfl, rfl⟩

theorem EncodeRow.kzDec (ks : SlotIx) (src dst : Addr) :
    EncodeRow.Statement (.kzDec ks src dst) :=
  ⟨_, rfl, rfl, rfl, rfl⟩

theorem EncodeRow.kzRemask (ks : SlotIx) :
    EncodeRow.Statement (.kzRemask ks) :=
  ⟨_, rfl, rfl, rfl, rfl⟩

theorem EncodeRow.kzDelkeys (ks : SlotIx) :
    EncodeRow.Statement (.kzDelkeys ks) :=
  ⟨_, rfl, rfl, rfl, rfl⟩

theorem EncodeRow.mgSched (ks : SlotIx) :
    EncodeRow.Statement (.mgSched ks) :=
  ⟨_, rfl, rfl, rfl, rfl⟩

theorem EncodeRow.mgEnc (ks : SlotIx) (src dst : Addr) :
    EncodeRow.Statement (.mgEnc ks src dst) :=
  ⟨_, rfl, rfl, rfl, rfl⟩

theorem EncodeRow.mgDec (ks : SlotIx) (src dst : Addr) :
    EncodeRow.Statement (.mgDec ks src dst) :=
  ⟨_, rfl, rfl, rfl, rfl⟩

theorem EncodeRow.mgRemask (ks : SlotIx) :
    EncodeRow.Statement (.mgRemask ks) :=
  ⟨_, rfl, rfl, rfl, rfl⟩

theorem EncodeRow.mgDelkeys (ks : SlotIx) :
    EncodeRow.Statement (.mgDelkeys ks) :=
  ⟨_, rfl, rfl, rfl, rfl⟩

theorem EncodeRow.xtsEnc (ks kt : SlotIx) (src dst : Addr) (len : Word) (iv : Addr) (ivlen : Byte) :
    EncodeRow.Statement (.xtsEnc ks kt src dst len iv ivlen) :=
  ⟨_, rfl, rfl, rfl, rfl⟩

theorem EncodeRow.xtsDec (ks kt : SlotIx) (src dst : Addr) (len : Word) (iv : Addr) (ivlen : Byte) :
    EncodeRow.Statement (.xtsDec ks kt src dst len iv ivlen) :=
  ⟨_, rfl, rfl, rfl, rfl⟩

end Sys2Proof.Laws
end

