-- ==== Sys2Proof/Tests/Slice0.lean ====
section
/-! SUPPORT. The author's tests: expected values come from the spec's encodings, rules and vectors, named in each group;
then one witness for the hypotheses of every statement that has some. -/

namespace Sys2Proof.Tests

open Sys2Proof.Machine

set_option Elab.async false

/-! ## Helpers -/

/-- The outcome is a next state with the given property. -/
def nextIs (o : Host.Outcome State Fault Refusal) (p : State → Bool) : Bool :=
  match o with
  | .next t => p t
  | _ => false

theorem exists_of_nextIs (o : Host.Outcome State Fault Refusal) (p : State → Bool) (h : nextIs o p = true) :
    ∃ t, o = .next t ∧ p t = true := by
  cases o with
  | next t => exact ⟨t, rfl, h⟩
  | _ => cases h

/-- The outcome is a next state in which `STATUS` and `ERRINFO` read so. -/
def reads (o : Host.Outcome State Fault Refusal) (status errinfo : Word) : Bool :=
  nextIs o fun t => t.statusAt 0 == status && t.statusAt 4 == errinfo

/-- The command succeeds. -/
def succeeds (o : Host.Outcome State Fault Refusal) : Bool :=
  nextIs o fun t => t.code == 0

theorem exists_of_succeeds (o : Host.Outcome State Fault Refusal) (h : succeeds o = true) :
    ∃ t, o = .next t ∧ t.code = 0 := by
  obtain ⟨t, h1, h2⟩ := exists_of_nextIs _ _ h
  exact ⟨t, h1, by simpa using h2⟩

/-- The integer spelled by n bytes of `MEM`, if all are written. -/
def fetched (t : State) (a n : Nat) : Option Nat :=
  match memRead t.mem a n with
  | .ok bs => some (leNat bs)
  | .error _ => none

/-- `MEM` with n bytes at a, the rest unwritten. -/
def memOf (a n v : Nat) : Memory :=
  memWrite [] a (toBytes n (BitVec.ofNat (8 * n) v))

/-- The machine of the examples with tables, the given slots, memory and answers to come. -/
def machine (slots : List Slot) (mem : Memory) (entropy : List (Option Nat)) : State :=
  { State.reset with slots := slots, tablesValid := true, mem := mem, entropy := entropy }

/-- A machine in which the next n requests are answered. -/
def answering (n : Nat) (slots : List Slot) (mem : Memory) : State :=
  machine slots mem (List.replicate n (some 0x55))

/-- Slot 0 of V10: `KUZKEY` under the first 32 bytes of the example stream. -/
def kuzSlot : Slot :=
  (Slot.blank.created .kuz 0xe4c8ac9074593e2309efd5bba1886f563e260ef6dec7b099836d57412b1601 1000).loaded 0x8899aabbccddeeff0011223344556677fedcba98765432100123456789abcdef

/-- Slot 1 of V20: `MGKEY_N` under the first 32 bytes of the example stream. -/
def magmaSlot : Slot :=
  (Slot.blank.created .magma 0xe4c8ac9074593e2309efd5bba1886f563e260ef6dec7b099836d57412b1601 1000).loaded 0xffeeddccbbaa99887766554433221100f0f1f2f3f4f5f6f7f8f9fafbfcfdfeff

/-- The same with the schedule of V20. -/
def magmaScheduled : Slot :=
  magmaSlot.mgScheduled false 0x14f0cca884603d1af7d5b3916f4d2c0beacaaa8a6a4a2b0cedcfb19375573a1d 0x28fcd0a4784c21f6cba1774d23f9d0a77e562e06deb68f68411bf5cfa9835e39

/-- A Magma slot holding `MGKEY_C`, scheduled under the compatibility convention with zero masks. -/
def compatScheduled : Slot :=
  ((Slot.blank.created .magma 0 1000).loaded 0xfffefdfcfbfaf9f8f7f6f5f4f3f2f1f000112233445566778899aabbccddeeff).mgScheduled true 0 0

/-- A Magma slot holding `SEQ32`, scheduled, with r units of resource. -/
def tweakWith (r : BitVec 64) : Slot :=
  ((Slot.blank.created .magma 0 r).loaded 0x1f1e1d1c1b1a191817161514131211100f0e0d0c0b0a09080706050403020100).mgScheduled false 0 0

/-- The same with the two units one XTS command takes. -/
def tweakScheduled : Slot := tweakWith 2

/-- A slot no run reaches: Kuznechik, scheduled, every array zero, one unit of resource, every check passing. -/
def zeroArrays : Slot :=
  { Slot.blank with alg := .kuz, icodeSet := true, sched := true, res := 1 }

/-- The slots of V24 (b). -/
def magmaPair : List Slot :=
  [magmaScheduled, tweakScheduled, Slot.blank, Slot.blank]

/-- `IV16` at 0x80, `TXT` at 0x100. -/
def xtsMemory : Memory :=
  memWrite (memOf 0x80 16 0x100f0e0d0c0b0a090807060504030201) 0x100 (toBytes 40 (0x67666564636261605f5e5d5c5b5a595857565554535251504f4e4d4c4b4a49484746454443424140 : BitVec 320))

/-! ## Well-formedness: each check refuses an ill-formed command (R72) -/

theorem test_wellFormed_refuses_ks :
    [Instr.kcreate 4 1, .kload 4 0, .ksetmask 4, .kunmask 4, .kseticode 4, .kchkicode 4, .kdestroy 4, .kzSched 4,
      .kzEnc 4 0 0, .kzDec 4 0 0, .kzRemask 4, .kzDelkeys 4, .mgSched 4, .mgEnc 4 0 0, .mgDec 4 0 0, .mgRemask 4,
      .mgDelkeys 4, .xtsEnc 4 0 0 0 0 0 1, .xtsDec 4 0 0 0 0 0 1].all (fun i => !i.wellFormed 4) = true := by decide

theorem test_wellFormed_refuses_kt :
    [Instr.xtsEnc 0 4 0 0 0 0 1, .xtsDec 0 4 0 0 0 0 1].all (fun i => !i.wellFormed 4) = true := by decide

theorem test_wellFormed_accepts_last_slot :
    [Instr.gfmul 0 0 0, .tbuild, .kcreate 3 7, .xtsEnc 3 3 0 0 1 0 99].all (fun i => i.wellFormed 4) = true := by decide

/-! ## Decoding: every command's descriptor, written out from R66, R67 and R69 -/

theorem test_decode_gfmul :
    decodeTableWord 160 0x0100028000000000000000400000000000000000 = some (.gfmul 0x02 0x80 0x40) := by decide

theorem test_decode_tbuild :
    decodeTableWord 160 0x0200000000000000000000000000000000000000 = some (.tbuild) := by decide

theorem test_decode_kcreate :
    decodeTableWord 160 0x1020000100000000000000000000000000000000 = some (.kcreate 2 1) := by decide

theorem test_decode_kload :
    decodeTableWord 160 0x1100000000000fe1000000000000000000000000 = some (.kload 0 0xFE1) := by decide

theorem test_decode_ksetmask :
    decodeTableWord 160 0x1230000000000000000000000000000000000000 = some (.ksetmask 3) := by decide

theorem test_decode_kunmask :
    decodeTableWord 160 0x1310000000000000000000000000000000000000 = some (.kunmask 1) := by decide

theorem test_decode_kseticode :
    decodeTableWord 160 0x1420000000000000000000000000000000000000 = some (.kseticode 2) := by decide

theorem test_decode_kchkicode :
    decodeTableWord 160 0x15f0000000000000000000000000000000000000 = some (.kchkicode 15) := by decide

theorem test_decode_kdestroy :
    decodeTableWord 160 0x1610000000000000000000000000000000000000 = some (.kdestroy 1) := by decide

theorem test_decode_kzSched :
    decodeTableWord 160 0x2020000000000000000000000000000000000000 = some (.kzSched 2) := by decide

theorem test_decode_kzEnc :
    decodeTableWord 160 0x2100000000000020000000300000000000000000 = some (.kzEnc 0 0x20 0x30) := by decide

theorem test_decode_kzDec :
    decodeTableWord 160 0x2220000000000030000000400000000000000000 = some (.kzDec 2 0x30 0x40) := by decide

theorem test_decode_kzRemask :
    decodeTableWord 160 0x2310000000000000000000000000000000000000 = some (.kzRemask 1) := by decide

theorem test_decode_kzDelkeys :
    decodeTableWord 160 0x2430000000000000000000000000000000000000 = some (.kzDelkeys 3) := by decide

theorem test_decode_mgSched :
    decodeTableWord 160 0x3010000000000000000000000000000000000000 = some (.mgSched 1) := by decide

theorem test_decode_mgEnc :
    decodeTableWord 160 0x3110000089abcdef765432100000000000000000 = some (.mgEnc 1 0x89ABCDEF 0x76543210) := by decide

theorem test_decode_mgDec :
    decodeTableWord 160 0x3210000000000028000000300000000000000000 = some (.mgDec 1 0x28 0x30) := by decide

theorem test_decode_mgRemask :
    decodeTableWord 160 0x3320000000000000000000000000000000000000 = some (.mgRemask 2) := by decide

theorem test_decode_mgDelkeys :
    decodeTableWord 160 0x3410000000000000000000000000000000000000 = some (.mgDelkeys 1) := by decide

theorem test_decode_xtsEnc :
    decodeTableWord 160 0x4001100000000100000002000000002000000080 = some (.xtsEnc 0 1 0x100 0x200 0x20 0x80 16) := by decide

theorem test_decode_xtsDec :
    decodeTableWord 160 0x4110ff0080000001400000022000000310000004 = some (.xtsDec 1 0 0x80000001 0x40000002 0x20000003 0x10000004 0xFF) := by decide

/-- V30: what each refused descriptor is refused for. -/
theorem test_decode_refusals :
    decodeIssued 4 0x0000000000000000000000000000000000000000 = .error .opcode ∧
    decodeIssued 4 0xFF00000000000000000000000000000000000000 = .error .opcode ∧
    decodeIssued 4 0x4200000000000000000000000000000000000000 = .error .opcode ∧
    decodeIssued 4 0x2100000100000020000000300000000000000000 = .error .mustBeZero ∧
    decodeIssued 4 0x2190000100000020000000300000000000000000 = .error .mustBeZero ∧
    decodeIssued 4 0x2190000000000020000000300000000000000000 = .error (.slotRange 9) ∧
    decodeIssued 4 0x4045100000000100000002000000001000000080 = .error (.slotRange 4) ∧
    decodeIssued 4 0x4005100000000100000002000000001000000080 = .error (.slotRange 5) :=
  ⟨rfl, rfl, rfl, rfl, rfl, rfl, rfl, rfl⟩

/-- V30's rows through the port: `STATUS.code` 7 with the sub-cause and the slot. -/
theorem test_illegal_status :
    reads (step (State.reset.withFetchWord 160 0x0300000000000000000000000000000000000000)) 7 0x00000300 = true ∧
    reads (step (State.reset.withFetchWord 160 0x2101000000000020000000300000000000000000)) 7 0x00002101 = true ∧
    reads (step (State.reset.withFetchWord 160 0x2190000000000020000000300000000000000000)) 7 0x00092102 = true := by
  decide +kernel

/-! ## Field arithmetic and tables (V5, V7) -/

theorem test_gfMul_values :
    gfMul 0xFF 0x02 = 0x3D ∧ gfMul 0x80 0x80 = 0x77 ∧ gfMul 0x94 0x20 = 0xA8 ∧ gfMul 0x85 0xC2 = 0x22 ∧
      gfMul 0xC3 0xC3 = 0x1F ∧ gfMul 0xFB 0xFB = 0x16 ∧ gfMul 0x94 0x1B = 0x01 := by decide

theorem test_sbox_values : sbox 0x00 = 0xFC ∧ sbox 0x01 = 0xEE ∧ sbox 0xA5 = 0x00 ∧ sbox 0xFF = 0xB6 ∧
    sboxInv 0xFC = 0x00 ∧ sboxInv 0x00 = 0xA5 := by decide

theorem test_subBytes_example :
    subBytes 0xffeeddccbbaa99881122334455667700 = 0xb66cd8887d38e8d77765aeea0c9a7efc := by decide +kernel

theorem test_stepR_examples :
    stepR 0x00000000000000000000000000000100 = 0x94000000000000000000000000000001 ∧
    stepR 0x94000000000000000000000000000001 = 0xa5940000000000000000000000000000 ∧
    stepR 0x64a59400000000000000000000000000 = 0x0d64a594000000000000000000000000 := by decide +kernel

theorem test_encTab_sample : encTab 15 0xff = 0xf26d86a538c23dc1e127e6ca316cd6e7 := by decide +kernel

theorem test_decTab_sample : decTab 0 0x00 = 0xcc0e86c24fba593be3ef79825311f0cd := by decide +kernel

/-! ## Integrity codes and masking (V9, V10, V11) -/

theorem test_integrityCode_values :
    integrityCode [0x34, 0x12] = 0x12341234 ∧ integrityCode [0xfe, 0xff, 0x01, 0x00] = 0xFFFE0000 ∧
    keyCode 0 = 0 ∧ keyCode 1 = 0x00100001 ∧ keyCode 0x1f1e1d1c1b1a191817161514131211100f0e0d0c0b0a09080706050403020100 = 0xDD5500F1 ∧
    keyCode 0x8899aabbccddeeff0011223344556677fedcba98765432100123456789abcdef = 0x58D8BC43 ∧
    keyCode 0xfffefdfcfbfaf9f8f7f6f5f4f3f2f1f000112233445566778899aabbccddeeff = 0xF9728403 := by decide +kernel

theorem test_keyMasking_xor : kuzSlot.raw = 0x887d62175ca9b7c12318cde6fff4ee18a8e29c96808af5a098a02830c880dbee ∧
    kuzSlot.icode = 0x58D8BC43 := by decide +kernel

theorem test_keyMasking_additive : magmaSlot.raw = 0xd3a6784c1ef2c69a704519eec3996f47301901ebd4bea7927d68523e291500 := by
  decide +kernel

/-! ## Kuznechik (R132, R148) -/

theorem test_kzConstant_1 : kzConstant 1 = 0x6ea276726c487ab85d27bd10dd849401 := by decide +kernel

theorem test_kzIteration_1 :
    kzIteration 0x6ea276726c487ab85d27bd10dd849401 (0x8899aabbccddeeff0011223344556677, 0xfedcba98765432100123456789abcdef) =
      (0xc3d5fa01ebe36f7a9374427ad7ca8949, 0x8899aabbccddeeff0011223344556677) := by decide +kernel

/-! ## Magma (V18, V19, V20, V21) -/

theorem test_magma_round_parts : mgSubst 0xfdb97531 = 0x2a196f34 ∧ mgG 0x87654321 0xfedcba98 = 0xfdcbc20c := by
  decide +kernel

theorem test_magma_masked_sum :
    mgMaskedSum ⟨[0x10ffeedd], [0x11111111], [0x80112235], [0x80000001]⟩ 1 0 0x76543210 = 0x76430fdc ∧
    mgMaskedSum ⟨[0x10ffeedd], [0x11111111], [0x80112235], [0x80000001]⟩ 1 1 0x76543210 = 0x76430fdc := by decide +kernel

theorem test_magma_key_words :
    mgKeyWords false 0xffeeddccbbaa99887766554433221100f0f1f2f3f4f5f6f7f8f9fafbfcfdfeff = [0xffeeddcc, 0xbbaa9988, 0x77665544, 0x33221100, 0xf0f1f2f3, 0xf4f5f6f7, 0xf8f9fafb, 0xfcfdfeff] ∧
    mgKeyWords true 0xfffefdfcfbfaf9f8f7f6f5f4f3f2f1f000112233445566778899aabbccddeeff = mgKeyWords false 0xffeeddccbbaa99887766554433221100f0f1f2f3f4f5f6f7f8f9fafbfcfdfeff := by decide +kernel

theorem test_magma_schedule_words :
    magmaScheduled.fk = [0x754617e9, 0xa97a4b1b, 0xe1b08050, 0x1decbb8a, 0x603f1efe, 0xeccbaa88, 0x7d5a3815, 0x11eecba7] ∧
    magmaScheduled.fm = [0x75573a1d, 0xedcfb193, 0x6a4a2b0c, 0xeacaaa8a, 0x6f4d2c0b, 0xf7d5b391, 0x84603d1a, 0x14f0cca8] ∧
    magmaScheduled.ik = [0xa994806d, 0x85715c47, 0x67503a24, 0x4b341d06, 0x3307ddb4, 0xd6ab8056, 0x7f5226fb, 0x2bfed1a5] ∧
    magmaScheduled.rkicode = 0x38880008 := by decide +kernel

/-! ## XTS (V23) -/

theorem test_tweak_doubling :
    doubleTweak 0xf542569959963f04e0e20ede5bf06f80 = 0xea84ad32b32c7e09c1c41dbcb7e0df87 := by decide +kernel

/-! ## One step of each command (V6, V8, V10 to V14, V17, V19, V20, V24, V27, V31) -/

theorem test_gfmul_last_byte :
    nextIs (exec (.gfmul 0x94 0x94 0xFFF) State.reset) (fun t => memByte t.mem 0xFFF == some 0xA4) = true ∧
    reads (exec (.gfmul 0x94 0x94 0xFFF) State.reset) 0 0x00000100 = true := by decide +kernel

theorem test_gfmul_outside : reads (exec (.gfmul 0x94 0x94 0x1000) State.reset) 3 0x00000103 = true := by decide +kernel

theorem test_tbuild : reads (exec .tbuild State.reset) 0x00000200 0x00000200 = true := by decide +kernel

theorem test_kcreate :
    nextIs (exec (.kcreate 0 1) { State.reset with entropy := [some 0xe4c8ac9074593e2309efd5bba1886f563e260ef6dec7b099836d57412b1601] }) (fun t =>
      (t.slotAt 0).raw == 0xe4c8ac9074593e2309efd5bba1886f563e260ef6dec7b099836d57412b1601 &&
        (t.slotAt 0).mask == (t.slotAt 0).raw && t.statusAt 0x100 == 0x05 && t.statusAt 0x104 == 1000) = true := by
  decide +kernel

theorem test_kcreate_bad_algorithm : reads (exec (.kcreate 0 3) State.reset) 5 0x00001005 = true := by decide +kernel

theorem test_kload :
    nextIs (exec (.kload 0 0) (machine [Slot.blank.created .kuz 0xe4c8ac9074593e2309efd5bba1886f563e260ef6dec7b099836d57412b1601 1000, Slot.blank]
        (memOf 0 32 0x8899aabbccddeeff0011223344556677fedcba98765432100123456789abcdef) [])) (fun t =>
      t.slotAt 0 == kuzSlot && t.statusAt 0x100 == 0x0D) = true := by decide +kernel

theorem test_kload_twice : reads (exec (.kload 0 0xFE1) (machine [kuzSlot] [] [])) 0x205 0x00001102 = true := by decide +kernel

theorem test_ksetmask :
    nextIs (exec (.ksetmask 0) (machine
        [(Slot.blank.created .magma 0x123456780000000180000000ffffffff 0).loaded
          0xffffffff00000000000000000000000089abcdefffffffff8000000000000002] []
        [some 0x111111111111111111111111111111119abcdef0ffffffffffffffff00000001])) (fun t =>
      (t.slotAt 0).raw == 0x111111101111111111111111111111112468acdffffffffe7fffffff00000003 &&
        (t.slotAt 0).icode == 0x628CD79D) = true := by decide +kernel

theorem test_kunmask :
    nextIs (exec (.kunmask 0) (machine [kuzSlot] [] [])) (fun t =>
      (t.slotAt 0).raw == 0x8899aabbccddeeff0011223344556677fedcba98765432100123456789abcdef && (t.slotAt 0).mask == 0 &&
        t.statusAt 0x100 == 0x09) = true := by decide +kernel

theorem test_kseticode :
    nextIs (exec (.kseticode 0) (machine [Slot.blank.created .kuz 7 1] [] [])) (fun t =>
      (t.slotAt 0).icode == 0 && t.statusAt 0x100 == 0x0D) = true := by decide +kernel

theorem test_kchkicode_no_code :
    reads (exec (.kchkicode 0) (machine [Slot.blank.created .kuz 7 1] [] [])) 0x201 0x00001502 = true := by decide +kernel

theorem test_kchkicode_flipped_bit :
    reads (exec (.kchkicode 0) (machine [{ kuzSlot with raw := kuzSlot.raw ^^^ 0x35 }] [] [])) 0x201 0x00001500 = true := by
  decide +kernel

theorem test_kdestroy :
    nextIs (exec (.kdestroy 0) (answering 6 [magmaSlot] [])) (fun t =>
      t.statusAt 0x100 == 0 && t.statusAt 0x104 == 0 && (t.slotAt 0).raw == 0x55 && t.fills == 6) = true := by decide +kernel

theorem test_kdestroy_third_draw_fails :
    nextIs (exec (.kdestroy 0) (machine [kuzSlot] [] [some 1, some 2, none])) (fun t =>
      t.slotAt 0 == kuzSlot && t.fills == 3 && t.statusAt 4 == 0x00001600) = true := by decide +kernel

theorem test_kzSched_wrong_engine : reads (exec (.kzSched 0) (machine [magmaSlot] [] [])) 0x205 0x00002000 = true := by
  decide +kernel

theorem test_kzSched_success :
    nextIs (exec (.kzSched 0) (answering 2 [kuzSlot] [])) (fun t => t.statusAt 0x100 == 0x1D && t.fills == 2) = true := by
  decide +kernel

theorem test_kzEnc_last_block :
    nextIs (exec (.kzEnc 0 0xFF0 0xFF0) (machine [zeroArrays] (memOf 0xFF0 16 0) [])) (fun t =>
      t.code == 0 && (t.slotAt 0).res == 0) = true := by decide +kernel

theorem test_kzEnc_halts :
    nextIs (exec (.kzEnc 0 0 0) { machine [zeroArrays] [] [] with tablesValid := false }) (fun t =>
      t.statusAt 0 == 0x108 && t.statusAt 4 == 0x00002100 && t.faults == 0x100) = true := by decide +kernel

theorem test_kzDec_exhausted :
    reads (exec (.kzDec 0 0x30 0x40) (machine [{ zeroArrays with res := 0 }] [] [])) 0x202 0x00002200 = true := by decide +kernel

theorem test_kzDec_source_range :
    reads (exec (.kzDec 0 0xFFFFFFF8 0x30) (machine [zeroArrays] [] [])) 0x203 0x00002202 = true := by decide +kernel

theorem test_kzRemask_unscheduled : reads (exec (.kzRemask 0) (machine [kuzSlot] [] [])) 0x205 0x00002303 = true := by
  decide +kernel

theorem test_kzRemask_masks :
    nextIs (exec (.kzRemask 0) (machine [zeroArrays] [] [some 3, some 5, some 6])) (fun t =>
      (t.slotAt 0).raw == 3 && (t.slotAt 0).mask == 3 && (t.slotAt 0).ek.head? == some 5 && (t.slotAt 0).em.head? == some 5 &&
        (t.slotAt 0).dk.head? == some 6 && (t.slotAt 0).dm.head? == some 6) = true := by decide +kernel

theorem test_kzDelkeys :
    nextIs (exec (.kzDelkeys 0) (answering 4 [kuzSlot] [])) (fun t =>
      t.statusAt 0x100 == 0x0D && (t.slotAt 0).raw == kuzSlot.raw && (t.slotAt 0).ek.head? == some 0x55) = true := by
  decide +kernel

theorem test_mgSched :
    nextIs (exec (.mgSched 1) (machine [Slot.blank, magmaSlot] [] [some 0x14f0cca884603d1af7d5b3916f4d2c0beacaaa8a6a4a2b0cedcfb19375573a1d, some 0x28fcd0a4784c21f6cba1774d23f9d0a77e562e06deb68f68411bf5cfa9835e39])) (fun t =>
      t.slotAt 1 == magmaScheduled && t.statusAt 0x110 == 0x1E) = true := by decide +kernel

theorem test_mgEnc_native :
    nextIs (exec (.mgEnc 0 0x20 0x30) (answering 32 [magmaScheduled] (memOf 0x20 8 0xfedcba9876543210))) (fun t =>
      fetched t 0x30 8 == some 0x4ee901e5c2d8ca3d && t.statusAt 0x104 == 999) = true := by decide +kernel

theorem test_mgEnc_fifth_draw_fails :
    nextIs (exec (.mgEnc 0 0x20 0x30) (machine [magmaScheduled] [] [some 0, some 0, some 0, some 0, none])) (fun t =>
      t.code == 6 && t.statusAt 0x104 == 1000 && t.fills == 5) = true := by decide +kernel

theorem test_mgDec_compat :
    nextIs (exec (.mgDec 0 0x20 0x20)
        { answering 32 [compatScheduled] (memOf 0x20 8 0x3dcad8c2e501e94e) with cfg := { Config.examples with compat := true } })
      (fun t => fetched t 0x20 8 == some 0x1032547698badcfe && t.statusAt 0 == 0x600) = true := by decide +kernel

theorem test_mgRemask :
    nextIs (exec (.mgRemask 1) (machine [Slot.blank, magmaScheduled] []
        [some 0x8c38e4903ce89542ef9d4bf9a75504b36212c27222d28334e59749fbad5f12c5,
         some 0xa044e88c30d4791ec3690fb55b01a84ff69e46ee963ee79039e38d37e18b36e1,
         some 0xb450ec8824c05dfa9735d3710fad4ceb8a2aca6a0aaa4bec8d2fd17315b75afd])) (fun t =>
      (t.slotAt 1).fk == [0xe17a14ad, 0xf58e26bf, 0x0da53cd4, 0x29c057ee, 0x4bf39b42, 0xb85f06ac, 0x29ce7419, 0x9d42e78b] &&
      (t.slotAt 1).ik == [0x15c87d31, 0xd18537eb, 0x9343f6a8, 0x5708b96a, 0x1ebb59f8, 0xa23fdc7a, 0x2bc662ff, 0xb752ed89] &&
      (t.slotAt 1).raw == 0x8c27c25cf8932eca6703a13dda7715b35304b56517c87a2bde9144f6aa5d11c4) = true := by decide +kernel

theorem test_mgDelkeys :
    nextIs (exec (.mgDelkeys 0) (answering 4 [magmaScheduled] [])) (fun t =>
      t.statusAt 0x100 == 0x0E && (t.slotAt 0).rkicode == 0 && (t.slotAt 0).fk.head? == some 0x55) = true := by decide +kernel

theorem test_xtsEnc_magma :
    nextIs (exec (.xtsEnc 0 1 0x100 0x200 16 0x80 16) (answering 134 magmaPair xtsMemory)) (fun t =>
      fetched t 0x200 16 == some 0x6268c0976f18de220ba0a1b2a13f3095 && t.statusAt 0x104 == 998 && t.statusAt 0x114 == 0) =
      true := by decide +kernel

theorem test_xtsEnc_same_slot : reads (exec (.xtsEnc 0 0 0x100 0x200 16 0x80 16) (answering 0 magmaPair xtsMemory)) 0x205
    0x00004004 = true := by decide +kernel

theorem test_xtsDec_magma :
    nextIs (exec (.xtsDec 0 1 0x200 0x200 8 0x80 16)
        (answering 102 magmaPair (memWrite xtsMemory 0x200 [0x95, 0x30, 0x3f, 0xa1, 0xb2, 0xa1, 0xa0, 0x0b]))) (fun t =>
      fetched t 0x200 8 == some 0x4746454443424140) = true := by decide +kernel

theorem test_xtsDec_length : reads (exec (.xtsDec 0 1 0x100 0x200 20 0x80 16) (answering 0 magmaPair xtsMemory)) 0x203
    0x00004100 = true := by decide +kernel

/-- V33. -/
theorem test_first_command_after_reset :
    reads (step (State.reset.withFetchWord 160 0x2100000000000000000000100000000000000000)) 4 0x00002100 = true := by
  decide +kernel

/-! ## Machines that meet the invariants -/

theorem machine_inv (slots : List Slot) (mem : Memory) (entropy : List (Option Nat)) (hl : slots.length = 4)
    (hs : ∀ sl ∈ slots, sl.Inv false) (hm : Memory.wf mem = true) (hi : mem.all (fun c => decide (c.1 < 4096)) = true) :
    (machine slots mem entropy).Inv where
  config_valid := (rfl : Config.examples.valid = true)
  slot_count := hl
  slots_inv := hs
  mem_wf := hm
  mem_inside c hc := of_decide_eq_true (List.all_eq_true.1 hi c hc)
  code_range := Nat.zero_le 8
  faults_bits := (by decide : (0 : Word) &&& 0xFFFFFE01 = 0)
  code_recorded h := absurd rfl h
  halt_recorded h := by cases h

theorem loaded_inv (c : Bool) (a : Alg) (m : KeyBytes) (r : BitVec 64) (v : KeyBytes) (ha : a ≠ .empty)
    (hr : r.toNat < 2 ^ 63) : ((Slot.blank.created a m r).loaded v).Inv c :=
  inv_loaded c _ v (inv_created c _ a m r (inv_blank c) ha hr) ha rfl

theorem kuzSlot_inv : kuzSlot.Inv false := loaded_inv _ _ _ _ _ (by decide) (by decide)

/-- `KUZKEY` scheduled under masks that are not zero. -/
def kuzScheduled : Slot := kuzSlot.kzScheduled 0x1234 0x5678

theorem kuzScheduled_inv : kuzScheduled.Inv false := inv_kzScheduled _ _ _ _ kuzSlot_inv rfl rfl

theorem magmaScheduled_inv : magmaScheduled.Inv false :=
  inv_mgScheduled _ _ _ _ (loaded_inv _ _ _ _ _ (by decide) (by decide)) rfl rfl

theorem tweakScheduled_inv : tweakScheduled.Inv false :=
  inv_mgScheduled _ _ _ _ (loaded_inv _ _ _ _ _ (by decide) (by decide)) rfl rfl

theorem magmaPair_inv (mem : Memory) (entropy : List (Option Nat)) (hm : Memory.wf mem = true)
    (hi : mem.all (fun c => decide (c.1 < 4096)) = true) : (machine magmaPair mem entropy).Inv := by
  refine machine_inv _ _ _ rfl (fun sl h => ?_) hm hi
  simp only [magmaPair, List.mem_cons, List.not_mem_nil, or_false] at h
  rcases h with rfl | rfl | rfl | rfl
  · exact magmaScheduled_inv
  · exact tweakScheduled_inv
  · exact inv_blank _
  · exact inv_blank _

/-- The Kuznechik slot, the Magma slot and two empty ones. -/
def mixedPair : List Slot := [kuzScheduled, magmaScheduled, Slot.blank, Slot.blank]

theorem mixedPair_inv (mem : Memory) (entropy : List (Option Nat)) (hm : Memory.wf mem = true)
    (hi : mem.all (fun c => decide (c.1 < 4096)) = true) : (machine mixedPair mem entropy).Inv := by
  refine machine_inv _ _ _ rfl (fun sl h => ?_) hm hi
  simp only [mixedPair, List.mem_cons, List.not_mem_nil, or_false] at h
  rcases h with rfl | rfl | rfl | rfl
  · exact kuzScheduled_inv
  · exact magmaScheduled_inv
  · exact inv_blank _
  · exact inv_blank _

/-- The next n requests are answered, as a check. -/
def allAnswered (s : State) (n : Nat) : Bool := (List.range n).all fun j => (answerAt s j).isSome

theorem answersOk_of_check (s : State) (n : Nat) (h : allAnswered s n = true) : answersOk s n := fun j hj =>
  List.all_eq_true.1 h j (List.mem_range.2 hj)

/-- The n bytes at a are written, as a check. -/
def allWritten (s : State) (a n : Nat) : Bool := (List.range n).all fun j => (memByte s.mem (a + j)).isSome

theorem readable_of_check (s : State) (a n : Nat) (h : allWritten s a n = true) : readable s a n := fun j hj =>
  List.all_eq_true.1 h j (List.mem_range.2 hj)

/-! ## Witnesses: encoding, the port and the host -/

theorem witness_EncodeOfDecode : decode 0x0200000000000000000000000000000000000000 = .ok .tbuild := rfl

theorem witness_MatchAndMaskDecideTheCommand :
    ((0x41, 0xFF0000FF00000000000000000000000000000000) : Byte × Descriptor) ∈ opcodeMasks := by decide

theorem witness_StepRunsTheDecodedCommand :
    (State.reset.withFetchWord 160 0x1230000000000000000000000000000000000000).port =
      [.command 0x1230000000000000000000000000000000000000] ∧
    decodeIssued 4 0x1230000000000000000000000000000000000000 = .ok (.ksetmask 3) := ⟨rfl, rfl⟩

theorem not_mem_opcodeMasks (op : Byte) (h : opcodeMasks.all (fun p => p.1 != op) = true) (mask : Descriptor) :
    (op, mask) ∉ opcodeMasks := fun hm => by simpa using List.all_eq_true.1 h _ hm

/-- One descriptor for each clause: no opcode, a bit of an unused field, `ks` at the first illegal slot, `kt` there with
`ks` at the last legal one. -/
theorem witness_IllegalDescriptorChangesOnlyStatus :
    (∀ mask, (issuedOp 0x4200000000000000000000000000000000000000, mask) ∉ opcodeMasks) ∧
    ((issuedOp 0x0200000000000000000000000000000000000001, (0xFFFFFFFFFFFFFFFFFFFFFFFFFFFFFFFFFFFFFFFF : Descriptor)) ∈
        opcodeMasks ∧
      (0x0200000000000000000000000000000000000001 : Descriptor) &&& 0xFFFFFFFFFFFFFFFFFFFFFFFFFFFFFFFFFFFFFFFF ≠
        BitVec.ofNat 160 (0x02 * 2 ^ 152)) ∧
    (decode 0x1240000000000000000000000000000000000000 = .ok (.ksetmask 4) ∧ slotFields (.ksetmask 4) = [4]) ∧
    (decode 0x4034100000000100000002000000001000000080 = .ok (.xtsEnc 3 4 0x100 0x200 16 0x80 16) ∧
      slotFields (.xtsEnc 3 4 0x100 0x200 16 0x80 16) = [3, 4]) ∧
    State.reset.cfg.nSlots = 4 ∧ State.reset.halted = false :=
  ⟨not_mem_opcodeMasks _ (by decide), ⟨by decide, by decide⟩, ⟨rfl, rfl⟩, ⟨rfl, rfl⟩, rfl, rfl⟩

theorem witness_HaltedCoreRefusesEveryDescriptor :
    (({ State.reset with halted := true } : State).withFetchWord 160 0).port = [.command 0] ∧
    nextIs (perform (.reset Config.examples) { State.reset with halted := true }) (fun t => !t.halted) = true :=
  ⟨rfl, by decide⟩

theorem witness_IdleCoreWaits : State.reset.port = [] := rfl

/-- At the end of `MEM`: the last byte is inside, the one after it is not, and an empty operand may end there. -/
theorem witness_HostAccess :
    (0xFFF#32).toNat + [1#8].length ≤ State.reset.cfg.memSize ∧
    memRead (machine [] (memOf 0xFFF 1 1) []).mem 0xFFF 1 = .ok [1] ∧
    State.reset.cfg.memSize < (0xFFF#32).toNat + [1#8, 2#8].length ∧
    (0x1000#32).toNat + ([] : List Byte).length ≤ State.reset.cfg.memSize := by decide

/-- R7's bounds, from both sides. -/
theorem witness_ResetInput :
    (Config.mk 2 64 false 0 0).valid = true ∧
    (Config.mk 16 (2 ^ 32) true 0x7FFFFFFFFFFFFFFF 0x7FFFFFFFFFFFFFFF).valid = true ∧
    (Config.mk 1 64 false 0 0).valid = false ∧ (Config.mk 17 64 false 0 0).valid = false ∧
    (Config.mk 2 63 false 0 0).valid = false ∧ (Config.mk 2 (2 ^ 32 + 1) false 0 0).valid = false ∧
    (Config.mk 2 64 false 0x8000000000000000 0).valid = false := by decide

/-! ## Witnesses: whole-machine rules -/

theorem witness_InvariantsHoldInEveryReachableState :
    (machine magmaPair xtsMemory []).Inv ∧
      ∃ t, step ((machine magmaPair xtsMemory []).withFetchWord 160 0x1300000000000000000000000000000000000000) = .next t := by
  refine ⟨magmaPair_inv _ _ (by decide +kernel) (by decide +kernel), ?_⟩
  obtain ⟨t, h, -⟩ := exists_of_nextIs (step ((machine magmaPair xtsMemory []).withFetchWord 160
    0x1300000000000000000000000000000000000000)) (fun _ => true) (by decide +kernel)
  exact ⟨t, h⟩

theorem witness_CompletionReportsTheCommand :
    (∃ t, exec .tbuild State.reset = .next t ∧ (t.code == 0) = true) ∧
    (∃ t, exec (.gfmul 1 1 0x1000) State.reset = .next t ∧ (t.code == 3) = true) ∧
    (∃ t, exec .tbuild { State.reset with halted := true } = .next t ∧ (t.code == 8) = true) :=
  ⟨exists_of_nextIs _ _ (by decide), exists_of_nextIs _ _ (by decide), exists_of_nextIs _ _ (by decide)⟩

/-- Code 1 and code 8, the ends of the range; an illegal descriptor; a set bit before a step; a state that meets the invariants. -/
theorem witness_FaultsAreSticky :
    (∃ t, exec (.kchkicode 0) (machine [Slot.blank.created .kuz 7 1] [] []) = .next t ∧ (t.code == 1) = true) ∧
    (∃ t, exec .tbuild { State.reset with halted := true } = .next t ∧ (t.code == 8) = true) ∧
    (∃ t, perform (.command 0) State.reset = .next t ∧ (t.code == 7) = true) ∧
    (∃ t, perform (.command 0) { State.reset with faults := 2 } = .next t ∧ (2#32).getLsbD 1 = true) ∧
    (machine magmaPair [] []).Inv := by
  refine ⟨exists_of_nextIs _ _ (by decide +kernel), exists_of_nextIs _ _ (by decide),
    exists_of_nextIs _ _ (by decide), ?_,
    magmaPair_inv _ _ (by decide) (by decide)⟩
  obtain ⟨t, h, -⟩ := exists_of_nextIs (perform (.command 0) { State.reset with faults := 2 }) (fun _ => true) (by decide)
  exact ⟨t, h, by decide⟩

theorem witness_StatusSpaceLayout :
    (3 : SlotIx).toNat < State.reset.cfg.nSlots ∧ 0x13C ∉ [0, 4, 8] ∧
    (∀ j < 4, 0x13C ∉ [0x100 + 0x10 * j, 0x104 + 0x10 * j, 0x108 + 0x10 * j]) ∧
    (∀ j < 4, 0x140 ∉ [0x100 + 0x10 * j, 0x104 + 0x10 * j, 0x108 + 0x10 * j]) := by decide

theorem witness_ChecksFollowTheGlobalOrder :
    refusalOf (.ksetmask 3) State.reset = some (.emptyData 3) ∧
    refusalOf (.kzEnc 0 0xFFF8 0) { State.reset with halted := true } = some .isHalted ∧
    refusalOf (.kzEnc 0 0 0) { machine [zeroArrays] [] [] with tablesValid := false } = some .noTables := by decide +kernel

/-- The first and the last of the six requests of KDESTROY. -/
theorem witness_FailedDrawChangesNothing :
    isXts (.kdestroy 0) = false ∧ refusalOf (.kdestroy 0) (machine [kuzSlot] [] [none]) = none ∧
    (drawsOf (.kdestroy 0) (machine [kuzSlot] [] [none])).length = 6 ∧
    answersOk (machine [kuzSlot] [] [none]) 0 ∧ answerAt (machine [kuzSlot] [] [none]) 0 = none ∧
    refusalOf (.kdestroy 0) (machine [kuzSlot] [] (List.replicate 5 (some 1) ++ [none])) = none ∧
    answersOk (machine [kuzSlot] [] (List.replicate 5 (some 1) ++ [none])) 5 ∧
    answerAt (machine [kuzSlot] [] (List.replicate 5 (some 1) ++ [none])) 5 = none :=
  ⟨rfl, by decide +kernel, rfl, answersOk_of_check _ _ rfl, rfl, by decide +kernel, answersOk_of_check _ _ (by decide), rfl⟩

theorem witness_FailureChangesOnlyStatus :
    (∃ t, exec (.ksetmask 0) State.reset = .next t ∧ (t.code != 0) = true) ∧
    (∃ t, exec (.xtsEnc 0 0 0x100 0x200 16 0x80 16) (machine magmaPair [] []) = .next t ∧
      (t.code != 0 && t.code != 6) = true) :=
  ⟨exists_of_nextIs _ _ (by decide), exists_of_nextIs _ _ (by decide +kernel)⟩

/-- One command of each storing form, and one that stores nothing, each with a success. -/
theorem witness_CommandsStoreOnlyAtTheirDestination :
    (∃ t, exec (.gfmul 1 1 0xFFF) State.reset = .next t ∧ t.code = 0) ∧ ¬ within 0xFFE 0xFFF 1 ∧
    (∃ t, exec (.kzEnc 0 0xFF0 0xFF0) (machine [zeroArrays] (memOf 0xFF0 16 0) []) = .next t ∧ t.code = 0) ∧
    (∃ t, exec (.kzDec 0 0xFF0 0xFF0) (machine [zeroArrays] (memOf 0xFF0 16 0) []) = .next t ∧ t.code = 0) ∧
    ¬ within 0xFEF 0xFF0 16 ∧
    (∃ t, exec (.mgEnc 0 0xFF8 0xFF8) (answering 32 [magmaScheduled] (memOf 0xFF8 8 0)) = .next t ∧ t.code = 0) ∧
    (∃ t, exec (.mgDec 0 0xFF8 0xFF8) (answering 32 [magmaScheduled] (memOf 0xFF8 8 0)) = .next t ∧ t.code = 0) ∧
    ¬ within 0x1000 0xFF8 8 ∧
    (∃ t, exec (.xtsEnc 0 1 0x100 0xFF8 8 0x80 16) (answering 102 magmaPair xtsMemory) = .next t ∧ t.code = 0) ∧
    (∃ t, exec (.xtsDec 0 1 0x100 0xFF8 8 0x80 16) (answering 102 magmaPair xtsMemory) = .next t ∧ t.code = 0) ∧
    (∃ t, exec .tbuild State.reset = .next t ∧ t.code = 0) := by
  refine ⟨exists_of_succeeds _ (by decide), by simp [within], exists_of_succeeds _ (by decide +kernel),
    exists_of_succeeds _ (by decide +kernel), by simp [within], exists_of_succeeds _ (by decide +kernel),
    exists_of_succeeds _ (by decide +kernel), by simp [within], exists_of_succeeds _ (by decide +kernel),
    exists_of_succeeds _ (by decide +kernel), exists_of_succeeds _ (by decide)⟩

/-- A command that ends with another code than 8, KCHKICODE, and a slot no field names. -/
theorem witness_CommandsFrame :
    (∃ t, exec (.kchkicode 0) (machine [kuzSlot] [] []) = .next t ∧ t.code = 0) ∧ (1 : SlotIx) ∉ slotFields (.kchkicode 0) :=
  ⟨exists_of_succeeds _ (by decide +kernel), by decide⟩

/-- The last unit of resource under each of the four block commands. -/
theorem witness_ResourceOnlyFalls :
    (0 : SlotIx).toNat < [zeroArrays].length ∧ zeroArrays.res = 1 ∧
    (∃ t, exec (.kzEnc 0 0 0x10) (machine [zeroArrays] (memOf 0 16 0) []) = .next t ∧ t.code = 0) ∧
    (∃ t, exec (.kzDec 0 0 0x10) (machine [zeroArrays] (memOf 0 16 0) []) = .next t ∧ t.code = 0) ∧
    (∃ t, exec (.mgEnc 0 0 0x10) (answering 32 [{ magmaScheduled with res := 1 }] (memOf 0 8 0)) = .next t ∧ t.code = 0) ∧
    (∃ t, exec (.mgDec 0 0 0x10) (answering 32 [{ magmaScheduled with res := 1 }] (memOf 0 8 0)) = .next t ∧ t.code = 0) :=
  ⟨by decide, rfl, exists_of_succeeds _ (by decide +kernel), exists_of_succeeds _ (by decide +kernel),
    exists_of_succeeds _ (by decide +kernel), exists_of_succeeds _ (by decide +kernel)⟩

/-! ## Witnesses: the commands -/

theorem witness_GfmulWritesTheProduct : refusalOf (.gfmul 0x94 0x94 0xFFF) State.reset = none := by decide

theorem witness_TbuildMakesTheTablesValid : State.reset.halted = false := rfl

theorem witness_KcreateMakesTheInstance :
    refusalOf (.kcreate 0 1) (answering 1 [Slot.blank] []) = none ∧ refusalOf (.kcreate 0 2) (answering 1 [Slot.blank] []) = none ∧
    answersOk (answering 1 [Slot.blank] []) 1 :=
  ⟨by decide, by decide, answersOk_of_check _ _ rfl⟩

theorem witness_KloadWritesTheKey :
    refusalOf (.kload 0 0xFE0) (machine [Slot.blank.created .magma 7 1] (memOf 0xFE0 32 9) []) = none ∧
    readable (machine [Slot.blank.created .magma 7 1] (memOf 0xFE0 32 9) []) 0xFE0 32 :=
  ⟨by decide +kernel, readable_of_check _ _ _ (by decide +kernel)⟩

/-- KSETMASK and the two REMASK commands on scheduled slots, and KSETMASK on an unmasked slot with no schedule. -/
theorem witness_RemaskingCommandsChangeOnlyMasks :
    (answering 3 mixedPair []).Inv ∧ answersOk (answering 3 mixedPair []) 3 ∧
    (refusalOf (.ksetmask 0) (answering 3 mixedPair []) = none ∧ (drawsOf (.ksetmask 0) (answering 3 mixedPair [])).length = 3) ∧
    (refusalOf (.kzRemask 0) (answering 3 mixedPair []) = none ∧ (drawsOf (.kzRemask 0) (answering 3 mixedPair [])).length = 3) ∧
    (refusalOf (.mgRemask 1) (answering 3 mixedPair []) = none ∧ (drawsOf (.mgRemask 1) (answering 3 mixedPair [])).length = 3) ∧
    (refusalOf (.ksetmask 0) (answering 1 [kuzSlot.unmasked] []) = none ∧
      (drawsOf (.ksetmask 0) (answering 1 [kuzSlot.unmasked] [])).length = 1) :=
  ⟨mixedPair_inv _ _ rfl rfl, answersOk_of_check _ _ rfl, ⟨by decide +kernel, by decide +kernel⟩,
    ⟨by decide +kernel, by decide +kernel⟩, ⟨by decide +kernel, by decide +kernel⟩, ⟨by decide +kernel, by decide +kernel⟩⟩

theorem witness_KunmaskRestoresTheKey :
    refusalOf (.kunmask 0) (machine [magmaSlot] [] []) = none ∧
    refusalOf (.kunmask 0) (machine [magmaSlot.unmasked] [] []) = none := by decide +kernel

theorem witness_KseticodeCertifiesTheKey : refusalOf (.kseticode 0) (machine [kuzSlot] [] []) = none := by decide +kernel

theorem witness_KchkicodeOfAnIntactKey :
    (machine [kuzSlot] [] []).halted = false ∧ (kuzSlot.alg ≠ .empty) ∧ kuzSlot.icodeSet = true ∧
    integrityCode (toBytes 32 kuzSlot.trueKey) = kuzSlot.icode := ⟨rfl, by decide, rfl, by decide +kernel⟩

theorem witness_KdestroyErasesTheSlot :
    refusalOf (.kdestroy 0) (answering 6 mixedPair []) = none ∧ refusalOf (.kdestroy 1) (answering 6 mixedPair []) = none ∧
    answersOk (answering 6 mixedPair []) 6 :=
  ⟨by decide +kernel, by decide +kernel, answersOk_of_check _ _ rfl⟩

theorem witness_KzSchedStoresTheMaskedSchedule :
    refusalOf (.kzSched 0) (answering 2 [kuzSlot] []) = none ∧ answersOk (answering 2 [kuzSlot] []) 2 :=
  ⟨by decide +kernel, answersOk_of_check _ _ rfl⟩

/-- The first and the last check: the slot field and the counter. -/
theorem witness_KzBlockChecksInOrder :
    State.reset.halted = false ∧ refusalOf (.kzEnc 4 0 0) State.reset = some (.slotRange 4) ∧
    refusalOf (.kzDec 0 0xFF0 0xFF0) (machine [{ zeroArrays with res := 0 }] [] []) = some (.dataResource 0) := by
  decide +kernel

theorem witness_KzBlockCommandsWriteTheOutput :
    refusalOf (.kzEnc 0 0xFF0 0xFF0) (machine [zeroArrays] (memOf 0xFF0 16 0) []) = none ∧
    refusalOf (.kzDec 0 0xFF0 0) (machine [zeroArrays] (memOf 0xFF0 16 0) []) = none ∧
    readable (machine [zeroArrays] (memOf 0xFF0 16 0) []) 0xFF0 16 :=
  ⟨by decide +kernel, by decide +kernel, readable_of_check _ _ _ (by decide +kernel)⟩

theorem witness_KzPipelineIsTheClassicalCipher :
    (machine mixedPair [] []).Inv ∧ ((machine mixedPair [] []).slotAt 0).alg = .kuz ∧
    ((machine mixedPair [] []).slotAt 0).sched = true := ⟨mixedPair_inv _ _ rfl rfl, rfl, rfl⟩

theorem witness_KzOutputIgnoresTheMasks : xorBlocks [1, 2] [4, 8] = xorBlocks [0, 10] [5, 0] := by decide

theorem witness_KzDecryptInvertsEncrypt : (drawBlocks 0).length = 10 ∧ (drawBlocks 1).length = 10 := ⟨rfl, rfl⟩

theorem witness_KzDelkeysOverwritesTheSchedule :
    refusalOf (.kzDelkeys 0) (answering 4 mixedPair []) = none ∧ answersOk (answering 4 mixedPair []) 4 :=
  ⟨by decide +kernel, answersOk_of_check _ _ rfl⟩

theorem witness_MgSchedStoresTheMaskedSchedule :
    refusalOf (.mgSched 0) (answering 2 [magmaSlot] []) = none ∧ answersOk (answering 2 [magmaSlot] []) 2 :=
  ⟨by decide +kernel, answersOk_of_check _ _ rfl⟩

theorem witness_MgBlockChecksInOrder :
    State.reset.halted = false ∧ refusalOf (.mgEnc 4 0 0) State.reset = some (.slotRange 4) ∧
    refusalOf (.mgDec 0 0xFF8 0xFF8) (machine [{ magmaScheduled with res := 0 }] [] []) = some (.dataResource 0) := by
  decide +kernel

theorem witness_MgBlockCommandsWriteTheOutput :
    refusalOf (.mgEnc 0 0xFF8 0xFF8) (answering 32 magmaPair (memOf 0xFF8 8 0)) = none ∧
    refusalOf (.mgDec 0 0xFF8 0) (answering 32 magmaPair (memOf 0xFF8 8 0)) = none ∧
    answersOk (answering 32 magmaPair (memOf 0xFF8 8 0)) 32 ∧
    readable (answering 32 magmaPair (memOf 0xFF8 8 0)) 0xFF8 8 :=
  ⟨by decide +kernel, by decide +kernel, answersOk_of_check _ _ (by decide +kernel), readable_of_check _ _ _ (by decide +kernel)⟩

theorem witness_MgMaskedRoundsAreTheClassicalCipher :
    (drawWords 1).length = 8 ∧ (List.replicate 32 (1 : Word)).length = 32 ∧ (encOrder = encOrder ∨ encOrder = decOrder) :=
  ⟨rfl, rfl, .inl rfl⟩

theorem witness_MgDecryptInvertsEncrypt :
    (drawWords 2).length = 8 ∧ (List.replicate 32 (0 : Word)).length = 32 ∧ (List.replicate 32 (1 : Word)).length = 32 :=
  ⟨rfl, rfl, rfl⟩

theorem witness_MgDelkeysOverwritesTheSchedule :
    refusalOf (.mgDelkeys 1) (answering 4 mixedPair []) = none ∧ answersOk (answering 4 mixedPair []) 4 :=
  ⟨by decide +kernel, answersOk_of_check _ _ rfl⟩

/-! ## Witnesses: XTS and what the host cannot see -/

/-- The first, the alignment, the IV and the last check of R197. -/
theorem witness_XtsChecksInOrder :
    State.reset.halted = false ∧ refusalOf (.xtsEnc 4 5 0 0 0 0 0) State.reset = some (.slotRange 4) ∧
    refusalOf (.xtsDec 0 1 0xFF8 0xFF8 20 0xFF8 0) (machine magmaPair [] []) = some .lenNotMultiple ∧
    refusalOf (.xtsEnc 0 1 0xFF8 0xFF8 8 0xFF8 17) (machine magmaPair [] []) = some .ivLength ∧
    refusalOf (.xtsEnc 0 1 0xFF8 0xFF8 8 0xFF8 9) (machine magmaPair [] []) = some .ivRange ∧
    refusalOf (.xtsEnc 0 1 0xFF8 0xFF8 8 0xFF8 8) (machine [magmaScheduled, tweakWith 1] [] []) =
      some (.tweakResource 1) := by decide +kernel

/-- Two Magma keys, one block, the operands at the end of `MEM`: 64 draws for the tweak, 32 for the block, 6 at the exit. -/
theorem witness_XtsCompletes :
    (answering 102 magmaPair xtsMemory).Inv ∧
    refusalOf (.xtsEnc 0 1 0x120 0xFF8 8 0x80 16) (answering 102 magmaPair xtsMemory) = none ∧
    refusalOf (.xtsDec 0 1 0x120 0xFF8 8 0x80 16) (answering 102 magmaPair xtsMemory) = none ∧
    readable (answering 102 magmaPair xtsMemory) 0x80 16 ∧ readable (answering 102 magmaPair xtsMemory) 0x120 8 ∧
    xtsBlockDraws ⟨0, 1, 0x120, 0xFF8, 8, 0x80, 16⟩ (answering 102 magmaPair xtsMemory) + 6 = 102 ∧
    answersOk (answering 102 magmaPair xtsMemory) 102 :=
  ⟨magmaPair_inv _ _ (by decide +kernel) (by decide +kernel), by decide +kernel, by decide +kernel,
    readable_of_check _ _ _ (by decide +kernel), readable_of_check _ _ _ (by decide +kernel), by decide +kernel,
    answersOk_of_check _ _ (by decide +kernel)⟩

/-- In place, and between buffers that touch without overlapping, in both directions. -/
theorem witness_XtsEncOutput :
    (answering 102 magmaPair xtsMemory).Inv ∧
    refusalOf (.xtsEnc 0 1 0x100 0x108 8 0x80 16) (answering 102 magmaPair xtsMemory) = none ∧
    refusalOf (.xtsDec 0 1 0x100 0x108 8 0x80 16) (answering 102 magmaPair xtsMemory) = none ∧
    readable (answering 102 magmaPair xtsMemory) 0x80 16 ∧ readable (answering 102 magmaPair xtsMemory) 0x100 8 ∧
    answersOk (answering 102 magmaPair xtsMemory) 96 ∧ 0x100 + 8 ≤ 0x108 ∧
    (∃ t, exec (.xtsEnc 0 1 0x100 0x108 8 0x80 16) (answering 102 magmaPair xtsMemory) = .next t ∧ t.code = 0) ∧
    (∃ t, exec (.xtsEnc 0 1 0x100 0x100 8 0x80 16) (answering 102 magmaPair xtsMemory) = .next t ∧ t.code = 0) ∧
    (∃ t, exec (.xtsDec 0 1 0x100 0x108 8 0x80 16) (answering 102 magmaPair xtsMemory) = .next t ∧ t.code = 0) :=
  ⟨magmaPair_inv _ _ (by decide +kernel) (by decide +kernel), by decide +kernel, by decide +kernel,
    readable_of_check _ _ _ (by decide +kernel), readable_of_check _ _ _ (by decide +kernel),
    answersOk_of_check _ _ (by decide +kernel), by decide, exists_of_succeeds _ (by decide +kernel),
    exists_of_succeeds _ (by decide +kernel), exists_of_succeeds _ (by decide +kernel)⟩

/-- Two Magma keys with the two commands' units of resource, from 0x100 to 0x200 and back in place. -/
def roundTripMachine : State :=
  answering 204 [magmaScheduled, tweakWith 4, Slot.blank, Slot.blank] xtsMemory

theorem roundTripMachine_inv : roundTripMachine.Inv := by
  refine machine_inv _ _ _ rfl (fun sl h => ?_) (by decide +kernel) (by decide +kernel)
  simp only [List.mem_cons, List.not_mem_nil, or_false] at h
  rcases h with rfl | rfl | rfl | rfl
  · exact magmaScheduled_inv
  · exact inv_mgScheduled _ _ _ _ (loaded_inv _ _ _ _ _ (by decide) (by decide)) rfl rfl
  · exact inv_blank _
  · exact inv_blank _

theorem witness_XtsRoundTrip :
    roundTripMachine.Inv ∧ (0x100 + 8 ≤ 0x200) ∧ (∀ a, within a 0x80 16 → ¬ within a 0x200 8) ∧
    ∃ t, exec (.xtsEnc 0 1 0x100 0x200 8 0x80 16) roundTripMachine = .next t ∧ t.code = 0 ∧
      ∃ u, exec (.xtsDec 0 1 0x200 0x200 8 0x80 16) t = .next u ∧ u.code = 0 := by
  refine ⟨roundTripMachine_inv, by decide, fun a => ?_, ?_⟩
  · unfold within
    omega
  · obtain ⟨t, h, hp⟩ := exists_of_nextIs (exec (.xtsEnc 0 1 0x100 0x200 8 0x80 16) roundTripMachine)
      (fun t => t.code == 0 && succeeds (exec (.xtsDec 0 1 0x200 0x200 8 0x80 16) t)) (by decide +kernel)
    rw [Bool.and_eq_true] at hp
    exact ⟨t, h, by simpa using hp.1, exists_of_succeeds _ hp.2⟩

/-- The first request of the tweak and the last of the data block, as in V29 (i). -/
theorem witness_XtsLateFailure :
    (machine magmaPair xtsMemory [none]).Inv ∧
    refusalOf (.xtsEnc 0 1 0x100 0x200 8 0x80 16) (machine magmaPair xtsMemory [none]) = none ∧
    readable (machine magmaPair xtsMemory [none]) 0x80 16 ∧ readable (machine magmaPair xtsMemory [none]) 0x100 8 ∧
    xtsBlockDraws ⟨0, 1, 0x100, 0x200, 8, 0x80, 16⟩ (machine magmaPair xtsMemory [none]) = 96 ∧
    answerAt (machine magmaPair xtsMemory [none]) 0 = none ∧
    answersOk (machine magmaPair xtsMemory (List.replicate 95 (some 0) ++ [none])) 95 ∧
    answerAt (machine magmaPair xtsMemory (List.replicate 95 (some 0) ++ [none])) 95 = none :=
  ⟨magmaPair_inv _ _ (by decide +kernel) (by decide +kernel), by decide +kernel, readable_of_check _ _ _ (by decide +kernel),
    readable_of_check _ _ _ (by decide +kernel), by decide +kernel, rfl, answersOk_of_check _ _ (by decide +kernel),
    by decide +kernel⟩

/-- Every request answered but the first of the exit re-masking, as in V29 (ii), or but the last of all. -/
def exitFailure (n : Nat) : State :=
  machine magmaPair xtsMemory (List.replicate n (some 0) ++ [none] ++ List.replicate 3 (some 1))

/-- The exit re-masking fails in its first request, or in its last: the tweak key's. -/
theorem witness_XtsLateFailure_exit :
    (exitFailure 96).Inv ∧ (exitFailure 101).Inv ∧
    refusalOf (.xtsDec 0 1 0x100 0x200 8 0x80 16) (exitFailure 96) = none ∧
    refusalOf (.xtsDec 0 1 0x100 0x200 8 0x80 16) (exitFailure 101) = none ∧
    readable (exitFailure 96) 0x80 16 ∧ readable (exitFailure 96) 0x100 8 ∧
    xtsBlockDraws ⟨0, 1, 0x100, 0x200, 8, 0x80, 16⟩ (exitFailure 96) = 96 ∧
    answersOk (exitFailure 96) 96 ∧ answersOk (exitFailure 101) 96 ∧
    (remaskAnswered (exitFailure 96) 96 = false ∧ tweakRemaskAt (exitFailure 96) 96 = 97 ∧
      remaskAnswered (exitFailure 96) 97 = true) ∧
    (remaskAnswered (exitFailure 101) 96 = true ∧ tweakRemaskAt (exitFailure 101) 96 = 99 ∧
      remaskAnswered (exitFailure 101) 99 = false) :=
  ⟨magmaPair_inv _ _ (by decide +kernel) (by decide +kernel), magmaPair_inv _ _ (by decide +kernel) (by decide +kernel),
    by decide +kernel, by decide +kernel, readable_of_check _ _ _ (by decide +kernel),
    readable_of_check _ _ _ (by decide +kernel), by decide +kernel, answersOk_of_check _ _ (by decide +kernel),
    answersOk_of_check _ _ (by decide +kernel), by decide +kernel, by decide +kernel⟩

/-- V29 (ii) on two Magma keys: `E_ENTROPY`, both counters decremented, `remask(kt)` performed although `remask(ks)` failed. -/
theorem test_exit_remask_failure :
    nextIs (exec (.xtsEnc 0 1 0x100 0x200 8 0x80 16) (exitFailure 96)) (fun t =>
      t.code == 6 && t.errSlot == 0 && (t.slotAt 0).res == 999 && (t.slotAt 1).res == 0 &&
        (t.slotAt 0).mask == magmaScheduled.mask && (t.slotAt 1).mask == 1) = true := by decide +kernel

/-- A machine with one Kuznechik slot that holds the zero key under mask m, the next answer being v. -/
def oneKey (m : KeyBytes) (v : Nat) : State :=
  machine [Slot.blank.created .kuz m 1000, Slot.blank, Slot.blank, Slot.blank] [] [some v]

theorem oneKey_inv (m : KeyBytes) (v : Nat) : (oneKey m v).Inv := by
  refine machine_inv _ _ _ rfl (fun sl h => ?_) rfl rfl
  simp only [List.mem_cons, List.not_mem_nil, or_false] at h
  rcases h with rfl | rfl | rfl | rfl
  · exact inv_created _ _ _ _ _ (inv_blank _) (by decide) (by decide)
  all_goals exact inv_blank _

theorem alike_oneKey : Alike (oneKey 3 1) (oneKey 5 2) where
  rest := rfl
  slots k := by
    revert k
    unfold SlotAlike
    decide +kernel
  answers j := by
    cases j with
    | zero => rfl
    | succ j => rfl

theorem witness_MasksAndDrawsNeverReachTheHost :
    (oneKey 3 1).Inv ∧ (oneKey 5 2).Inv ∧ Alike (oneKey 3 1) (oneKey 5 2) ∧
    ∃ t, perform (.command 0x1200000000000000000000000000000000000000) (oneKey 3 1) = .next t ∧ t.code = 0 :=
  ⟨oneKey_inv _ _, oneKey_inv _ _, alike_oneKey, exists_of_succeeds _ (by decide +kernel)⟩

end Sys2Proof.Tests
end

section
/-! SUPPORT. The slots the commands make from a slot that meets R32: what each keeps of the true key and the round keys, and
that each meets R32. -/

namespace Sys2Proof.Machine

/-! ## The slots the commands make -/

theorem trueKey_remaskKey {compat : Bool} {sl : Slot} (h : sl.Inv compat) (ha : sl.alg ≠ .empty) (m : KeyBytes) :
    (sl.remaskKey m).trueKey = sl.trueKey := by
  rw [Slot.trueKey, remaskKey_raw_of_inv h ha]
  exact maskOff_maskOn _ _ _

/-- The zero mask hides nothing in either family (R18). -/
theorem maskOff_zero (alg : Alg) (r : KeyBytes) : maskOff alg r 0 = r := by
  cases alg with
  | magma =>
    refine key_ext _ _ fun j hj => ?_
    simp only [maskOff]
    rw [keyWord_keyOfWords _ _ hj]
    simp [keyWord]
  | _ => simp [maskOff]

/-- Removing the mask leaves the true key (R108). -/
theorem trueKey_unmasked (sl : Slot) : sl.unmasked.trueKey = sl.trueKey := by
  cases hm : sl.masked with
  | true =>
    simp only [Slot.trueKey, Slot.unmasked_alg, Slot.unmasked_raw, Slot.unmasked_mask, hm, if_true]
    exact maskOff_zero _ _
  | false => simp [Slot.trueKey, hm]

/-- Fresh masks leave the unmasked round keys of both engines (R143, R174). -/
theorem unmaskedKeys_freshlyMasked {compat : Bool} {sl : Slot} (h : sl.Inv compat) (s : State) (j : Nat) :
    (xorBlocks (freshlyMasked s j sl).ek (freshlyMasked s j sl).em = xorBlocks sl.ek sl.em ∧
      xorBlocks (freshlyMasked s j sl).dk (freshlyMasked s j sl).dm = xorBlocks sl.dk sl.dm) ∧
    (subWords (freshlyMasked s j sl).fk (freshlyMasked s j sl).fm = subWords sl.fk sl.fm ∧
      subWords (freshlyMasked s j sl).ik (freshlyMasked s j sl).im = subWords sl.ik sl.im) := by
  obtain ⟨hek, hem, hdk, hdm⟩ := h.kuz_sizes
  obtain ⟨hfk, hfm, hik, him⟩ := h.magma_sizes
  unfold freshlyMasked
  split
  · refine ⟨⟨rfl, rfl⟩, subWords_addWords _ _ ?_, subWords_addWords _ _ ?_⟩ <;>
      simp [length_subWords, length_drawWords, hfk, hfm, hik, him]
  · refine ⟨⟨xorBlocks_cancel _ _ ?_, xorBlocks_cancel _ _ ?_⟩, rfl, rfl⟩ <;>
      simp [length_xorBlocks, length_drawBlocks, hek, hem, hdk, hdm]

theorem sizes_freshlyMasked {compat : Bool} {sl : Slot} (h : sl.Inv compat) (s : State) (j : Nat) :
    ((freshlyMasked s j sl).ek.length = 10 ∧ (freshlyMasked s j sl).em.length = 10 ∧
      (freshlyMasked s j sl).dk.length = 10 ∧ (freshlyMasked s j sl).dm.length = 10) ∧
    ((freshlyMasked s j sl).fk.length = 8 ∧ (freshlyMasked s j sl).fm.length = 8 ∧
      (freshlyMasked s j sl).ik.length = 8 ∧ (freshlyMasked s j sl).im.length = 8) := by
  have hk := h.kuz_sizes
  have hm := h.magma_sizes
  unfold freshlyMasked
  split
  · simp [length_addWords, length_subWords, length_drawWords, hk, hm]
  · simp [length_xorBlocks, length_drawBlocks, hk, hm]

/-- A freshly masked slot meets R32. -/
theorem inv_freshlyMasked {compat : Bool} {sl : Slot} (h : sl.Inv compat) (ha : sl.alg ≠ .empty) (s : State) (j : Nat) :
    (freshlyMasked s j sl).Inv compat where
  empty_clear e := absurd ((freshlyMasked_alg s j sl).symm.trans e) ha
  unmasked_zero e := by simp at e
  code_matches := by simpa using h.code_matches
  kuz_schedule := by
    obtain ⟨⟨he, hd⟩, -⟩ := unmaskedKeys_freshlyMasked h s j
    simpa [he, hd] using h.kuz_schedule
  magma_schedule := by
    obtain ⟨-, hf, hi⟩ := unmaskedKeys_freshlyMasked h s j
    simpa [hf, hi] using h.magma_schedule
  sched_certified := by simpa using h.sched_certified
  kuz_sizes := (sizes_freshlyMasked h s j).1
  magma_sizes := (sizes_freshlyMasked h s j).2
  res_bounded := by simpa using h.res_bounded

/-- Re-masking the key of a slot without a schedule keeps R32. -/
theorem inv_remaskKey {compat : Bool} {sl : Slot} (h : sl.Inv compat) (ha : sl.alg ≠ .empty) (hs : sl.sched = false)
    (m : KeyBytes) : (sl.remaskKey m).Inv compat where
  empty_clear e := absurd e ha
  unmasked_zero e := by simp at e
  code_matches e := by
    rw [trueKey_remaskKey h ha]
    exact h.code_matches e
  kuz_schedule e := by simp [hs] at e
  magma_schedule e := by simp [hs] at e
  sched_certified := h.sched_certified
  kuz_sizes := h.kuz_sizes
  magma_sizes := h.magma_sizes
  res_bounded := h.res_bounded

/-- The slot `remask` leaves meets R32, scheduled or not. -/
theorem inv_remaskedSlot {compat : Bool} {s : State} {k : SlotIx} (h : (s.slotAt k).Inv compat)
    (ha : (s.slotAt k).alg ≠ .empty) : (remaskedSlot s k).Inv compat := by
  cases hs : (s.slotAt k).sched with
  | true =>
    rw [remaskedSlot_eq_freshlyMasked h hs ha]
    exact inv_freshlyMasked h ha s 0
  | false =>
    have hkey : remaskedSlot s k = (s.slotAt k).remaskKey (drawn s 0 32) := by simp [remaskedSlot, hs]
    rw [hkey]
    exact inv_remaskKey h ha hs _

theorem remaskedSlot_alg (s : State) (k : SlotIx) : (remaskedSlot s k).alg = (s.slotAt k).alg := by
  unfold remaskedSlot
  dsimp only
  split
  · split <;> rfl
  · rfl

/-- The slot KUNMASK leaves meets R32. -/
theorem inv_unmasked {compat : Bool} {sl : Slot} (h : sl.Inv compat) (ha : sl.alg ≠ .empty) :
    sl.unmasked.Inv compat where
  empty_clear e := absurd ((Slot.unmasked_alg sl).symm.trans e) ha
  unmasked_zero _ _ := by
    rw [Slot.unmasked_mask]
    split
    · rfl
    · exact h.unmasked_zero (by simp_all) ha
  code_matches := by simpa [trueKey_unmasked] using h.code_matches
  kuz_schedule := by simpa [trueKey_unmasked] using h.kuz_schedule
  magma_schedule := by simpa [trueKey_unmasked] using h.magma_schedule
  sched_certified := by simpa using h.sched_certified
  kuz_sizes := by simpa using h.kuz_sizes
  magma_sizes := by simpa using h.magma_sizes
  res_bounded := by simpa using h.res_bounded

/-- The slot KSETICODE leaves meets R32. -/
theorem inv_certified {compat : Bool} {sl : Slot} (h : sl.Inv compat) (ha : sl.alg ≠ .empty) :
    sl.certified.Inv compat where
  empty_clear e := absurd e ha
  unmasked_zero := h.unmasked_zero
  code_matches _ := rfl
  kuz_schedule := h.kuz_schedule
  magma_schedule := h.magma_schedule
  sched_certified _ := rfl
  kuz_sizes := h.kuz_sizes
  magma_sizes := h.magma_sizes
  res_bounded := h.res_bounded

/-- A cleared slot meets R32 whatever the draws that overwrote its key. -/
theorem inv_destroyed {compat : Bool} {sl : Slot} (h : sl.Inv compat) (a b : KeyBytes) :
    (sl.destroyed a b).Inv compat where
  empty_clear _ := ⟨rfl, rfl, rfl, rfl, rfl, rfl⟩
  unmasked_zero _ e := absurd rfl e
  code_matches e := by simp at e
  kuz_schedule e := by simp at e
  magma_schedule e := by simp at e
  sched_certified e := by simp at e
  kuz_sizes := h.kuz_sizes
  magma_sizes := h.magma_sizes
  res_bounded := by simp

/-- A slot whose schedule is deleted meets R32. -/
theorem inv_unscheduled {compat : Bool} {sl : Slot} (h : sl.Inv compat) : sl.unscheduled.Inv compat where
  empty_clear e :=
    have ⟨hmasked, hicode, _, hres, hcode, _⟩ := h.empty_clear e
    ⟨hmasked, hicode, rfl, hres, hcode, rfl⟩
  unmasked_zero := h.unmasked_zero
  code_matches := h.code_matches
  kuz_schedule e := by simp at e
  magma_schedule e := by simp at e
  sched_certified e := by simp at e
  kuz_sizes := h.kuz_sizes
  magma_sizes := h.magma_sizes
  res_bounded := h.res_bounded

/-- The Kuznechik arrays of a slot without a schedule are under no invariant but their lengths. -/
theorem inv_overwriteKz {compat : Bool} {sl : Slot} (h : sl.Inv compat) (hs : sl.sched = false)
    (d1 d2 d3 d4 : BitVec 1280) : (sl.overwriteKz d1 d2 d3 d4).Inv compat where
  empty_clear := h.empty_clear
  unmasked_zero := h.unmasked_zero
  code_matches := h.code_matches
  kuz_schedule e := by simp [hs] at e
  magma_schedule e := by simp [hs] at e
  sched_certified := h.sched_certified
  kuz_sizes := by simp [length_drawBlocks]
  magma_sizes := h.magma_sizes
  res_bounded := h.res_bounded

/-- The Magma arrays of a slot without a schedule are under no invariant but their lengths. -/
theorem inv_overwriteMg {compat : Bool} {sl : Slot} (h : sl.Inv compat) (hs : sl.sched = false)
    (d1 d2 d3 d4 : KeyBytes) : (sl.overwriteMg d1 d2 d3 d4).Inv compat where
  empty_clear := h.empty_clear
  unmasked_zero := h.unmasked_zero
  code_matches := h.code_matches
  kuz_schedule e := by simp [hs] at e
  magma_schedule e := by simp [hs] at e
  sched_certified := h.sched_certified
  kuz_sizes := h.kuz_sizes
  magma_sizes := by simp [length_drawWords]
  res_bounded := h.res_bounded

/-- Spending no more than is left does not wrap the counter (R28, R103). -/
theorem spend_res_toNat (sl : Slot) (n : Nat) (hn : n ≤ sl.res.toNat) : (sl.spend n).res.toNat = sl.res.toNat - n := by
  have := sl.res.isLt
  simp only [Slot.spend_res, BitVec.toNat_sub, BitVec.toNat_ofNat]
  omega

theorem inv_spend {compat : Bool} {sl : Slot} (h : sl.Inv compat) (ha : sl.alg ≠ .empty) (n : Nat)
    (hn : n ≤ sl.res.toNat) : (sl.spend n).Inv compat where
  empty_clear e := absurd e ha
  unmasked_zero := h.unmasked_zero
  code_matches := h.code_matches
  kuz_schedule := h.kuz_schedule
  magma_schedule := h.magma_schedule
  sched_certified := h.sched_certified
  kuz_sizes := h.kuz_sizes
  magma_sizes := h.magma_sizes
  res_bounded := by
    rw [spend_res_toNat sl n hn]
    have := h.res_bounded
    omega

end Sys2Proof.Machine
end

section
/-! SUPPORT. The updates of a state and the completion of a command keep the invariants, and the state after a legal reset
meets them. -/

namespace Sys2Proof.Machine

/-! ## The updates of a state -/

/-- The bytes of a memory lie below n exactly when every address from n on is unwritten. -/
theorem mem_below_iff (m : Memory) (n : Nat) : (∀ c ∈ m, c.1 < n) ↔ ∀ a, n ≤ a → memByte m a = none := by
  induction m with
  | nil => simp [memByte_nil]
  | cons c rest ih =>
    obtain ⟨a', b'⟩ := c
    rw [List.forall_mem_cons, ih]
    constructor
    · rintro ⟨hlt, hrest⟩ a ha
      rw [memByte, if_neg (by dsimp only at hlt; omega)]
      exact hrest a ha
    · intro h
      have hlt : a' < n := by
        by_contra hge
        have := h a' (by omega)
        simp [memByte] at this
      refine ⟨hlt, fun a ha => ?_⟩
      have := h a ha
      rwa [memByte, if_neg (by omega)] at this

/-- An operand that passes the range check touches no address outside `MEM` (R56). -/
theorem not_within_of_not_outsideMem {s : State} {a : Addr} {n x : Nat} (h : outsideMem s a n = false)
    (hx : s.cfg.memSize ≤ x) : ¬ within x a.toNat n := by
  simp only [outsideMem, Bool.and_eq_false_iff, decide_eq_false_iff_not] at h
  unfold within
  omega

/-- The invariant after a change of `MEM` that leaves every address outside it alone. -/
theorem State.Inv.withMem {s : State} (h : s.Inv) {m : Memory} (hwf : s.mem.wf = true → m.wf = true)
    (hout : ∀ a, s.cfg.memSize ≤ a → memByte m a = memByte s.mem a) : ({ s with mem := m } : State).Inv where
  config_valid := h.config_valid
  slot_count := h.slot_count
  slots_inv := h.slots_inv
  mem_wf := hwf h.mem_wf
  mem_inside := by
    refine (mem_below_iff m s.cfg.memSize).2 fun a ha => ?_
    rw [hout a ha]
    exact (mem_below_iff s.mem s.cfg.memSize).1 h.mem_inside a ha
  code_range := h.code_range
  faults_bits := h.faults_bits
  code_recorded := h.code_recorded
  halt_recorded := h.halt_recorded

theorem State.Inv.store {s : State} (h : s.Inv) (a : Nat) (bs : List Byte)
    (hin : ∀ x, s.cfg.memSize ≤ x → ¬ within x a bs.length) : (s.store a bs).Inv :=
  h.withMem (wf_store s a bs) fun x hx => memByte_store_of_not_within s a bs x (hin x hx)

theorem State.Inv.scramble {s : State} (h : s.Inv) (a n : Nat) (hin : ∀ x, s.cfg.memSize ≤ x → ¬ within x a n) :
    (s.scramble a n).Inv :=
  have hs := h.store a ((List.range n).map fun j => Config.freeByte (s.freeBytes + j)) (by simpa using hin)
  { hs with }

theorem State.Inv.afterAnswers {s : State} (h : s.Inv) (n : Nat) : (afterAnswers s n).Inv :=
  { h with }

/-- Every slot a command reads meets R32. -/
theorem State.Inv.slotAt {s : State} (h : s.Inv) (k : SlotIx) : (s.slotAt k).Inv s.cfg.compat := by
  unfold State.slotAt
  by_cases hk : k.toNat < s.slots.length
  · rw [List.getD_eq_getElem _ _ hk]
    exact h.slots_inv _ (List.getElem_mem hk)
  · rw [List.getD_eq_default _ _ (Nat.le_of_not_lt hk)]
    exact inv_blank _

theorem State.Inv.setSlot {s : State} (h : s.Inv) (k : SlotIx) {sl : Slot} (hsl : sl.Inv s.cfg.compat) :
    (s.setSlot k sl).Inv :=
  { h with
    slot_count := by simpa using h.slot_count
    slots_inv := fun x hx => by
      rcases List.mem_or_eq_of_mem_set hx with hx | rfl
      · exact h.slots_inv x hx
      · exact hsl }

/-! ## The completion -/

theorem getLsbD_faultBit_code (e : CoreError) : e.faultBit.getLsbD e.code = true := by
  have := e.code_pos
  simp only [CoreError.faultBit, BitVec.getLsbD_shiftLeft, BitVec.getLsbD_one, Bool.and_eq_true, decide_eq_true_eq,
    Bool.not_eq_true', decide_eq_false_iff_not]
  omega

/-- An error sets none of the bits of `FAULTS` that read as 0 (R38). -/
theorem faultBit_and_unused (e : CoreError) : e.faultBit &&& 0xFFFFFE01 = 0 := by
  obtain ⟨hpos, hle⟩ := e.code_pos
  unfold CoreError.faultBit
  interval_cases e.code <;> rfl

theorem toNat_ofNat_code (e : CoreError) : (BitVec.ofNat 8 e.code).toNat = e.code := by
  have := e.code_pos
  rw [BitVec.toNat_ofNat]
  omega

theorem State.Inv.ended {s : State} (h : s.Inv) (op : Byte) : (s.ended op).Inv :=
  { h with
    code_range := Nat.zero_le 8
    code_recorded := fun hc => absurd rfl hc }

/-- The taking of an error records its code, and 8 with the halt. -/
theorem State.Inv.failed {s : State} (h : s.Inv) (op : Byte) (e : CoreError) :
    ((s.complete op (some e)).haltOn e).Inv where
  config_valid := by simpa using h.config_valid
  slot_count := by simpa using h.slot_count
  slots_inv := by simpa using h.slots_inv
  mem_wf := by simpa using h.mem_wf
  mem_inside := by simpa using h.mem_inside
  code_range := by
    rw [State.haltOn_code, State.complete_some_code, toNat_ofNat_code]
    exact e.code_pos.2
  faults_bits := by
    rw [State.haltOn_faults, State.complete_some_faults, BitVec.and_or_distrib_right, h.faults_bits,
      faultBit_and_unused]
    rfl
  code_recorded _ := by
    simp only [State.haltOn_code, State.complete_some_code, State.haltOn_faults, State.complete_some_faults,
      toNat_ofNat_code, BitVec.getLsbD_or, getLsbD_faultBit_code, Bool.or_true]
  halt_recorded hh := by
    simp only [State.haltOn_halted, State.complete_some_halted, State.haltOn_faults, State.complete_some_faults,
      Bool.or_eq_true, decide_eq_true_eq, BitVec.getLsbD_or] at hh ⊢
    rcases hh with hh | rfl
    · exact .inl (h.halt_recorded hh)
    · exact .inr (getLsbD_faultBit_code .noTables)

theorem inv_resetWith {cfg : Config} (h : cfg.valid = true) : (State.resetWith cfg).Inv where
  config_valid := h
  slot_count := List.length_replicate
  slots_inv sl hsl := by
    rw [List.eq_of_mem_replicate hsl]
    exact inv_blank _
  mem_wf := wf_reset cfg
  mem_inside _ hc := nomatch hc
  code_range := Nat.zero_le 8
  faults_bits := BitVec.zero_and
  code_recorded hc := absurd rfl hc
  halt_recorded hh := nomatch hh

end Sys2Proof.Machine
end

section
/-! SUPPORT. What the body of a command keeps of the state it began in, what its checks establish, and the completion both
lead to. -/

namespace Sys2Proof.Machine

/-! ## What the body of a command keeps -/

/-- The body of a command may leave t when it began in s: the invariants hold as before, and `FAULTS`, which only a
completion writes (R38, R218), is the same. -/
structure Keeps (s t : State) : Prop where
  inv : s.Inv → t.Inv
  faults : t.faults = s.faults

theorem Keeps.refl (s : State) : Keeps s s := ⟨id, rfl⟩

theorem Keeps.afterAnswers {s t : State} (h : Keeps s t) (n : Nat) : Keeps s (afterAnswers t n) :=
  ⟨fun hs => (h.inv hs).afterAnswers n, h.faults⟩

/-- A slot may be replaced by one that meets R32 if the old one did. -/
theorem Keeps.setSlot {s t : State} (h : Keeps s t) (k : SlotIx) {sl : Slot}
    (hsl : t.Inv → (t.slotAt k).Inv t.cfg.compat → sl.Inv t.cfg.compat) : Keeps s (t.setSlot k sl) :=
  ⟨fun hs => (h.inv hs).setSlot k (hsl (h.inv hs) ((h.inv hs).slotAt k)), h.faults⟩

theorem Keeps.store {s t : State} (h : Keeps s t) (a : Nat) (bs : List Byte)
    (hin : ∀ x, t.cfg.memSize ≤ x → ¬ within x a bs.length) : Keeps s (t.store a bs) :=
  ⟨fun hs => (h.inv hs).store a bs hin, h.faults⟩

theorem Keeps.scramble {s t : State} (h : Keeps s t) (a n : Nat)
    (hin : ∀ x, t.cfg.memSize ≤ x → ¬ within x a n) : Keeps s (t.scramble a n) :=
  ⟨fun hs => (h.inv hs).scramble a n hin, h.faults⟩

theorem Keeps.withMem {s t : State} (h : Keeps s t) {m : Memory} (hwf : t.mem.wf = true → m.wf = true)
    (hout : ∀ a, t.cfg.memSize ≤ a → memByte m a = memByte t.mem a) : Keeps s { t with mem := m } :=
  ⟨fun hs => (h.inv hs).withMem hwf hout, h.faults⟩

/-! ## Parts of a command that end in a state of some kind -/

/-- Whichever way a part of a command ends, P holds of the state it leaves; nothing is said of a stop of the model. -/
def Res.Leaves {α : Type} (P : State → Prop) : Res α → Prop
  | .ok _ s => P s
  | .err _ s => P s
  | .stop _ => True

theorem leaves_fill_bind {s u : State} (h : Keeps s u) (who : SlotIx) (n : Nat) {k : BitVec (8 * n) → State → Res Unit}
    (hk : ∀ v, Keeps s (afterAnswers u 1) → (k v (afterAnswers u 1)).Leaves (Keeps s)) :
    ((fill who n u).bind k).Leaves (Keeps s) := by
  have hnext := h.afterAnswers 1
  rcases fill_cases who n u with ⟨-, hf⟩ | ⟨-, hf⟩ <;> rw [hf]
  · exact hk _ hnext
  · exact hnext

theorem leaves_readBytes_bind {P : State → Prop} (s : State) (a n : Nat) {k : List Byte → State → Res Unit}
    (hk : ∀ bs, (k bs s).Leaves P) : ((readBytes a n s).bind k).Leaves P := by
  rcases readBytes_cases a n s with ⟨bs, -, hr⟩ | ⟨x, -, hr⟩ <;> rw [hr]
  · exact hk bs
  · trivial

/-! ## What a command's checks establish -/

theorem check_passed {l : List (Bool × CoreError)} (h : firstFailure l = none) {c : Bool × CoreError} (hc : c ∈ l) :
    c.1 = false :=
  (firstFailure_eq_none l).1 h c hc

theorem not_of_passed {l : List (Bool × CoreError)} {p : Prop} [Decidable p] {e : CoreError}
    (h : firstFailure l = none) (hc : (decide p, e) ∈ l) : ¬ p :=
  of_decide_eq_false (check_passed h hc)

theorem alg_ne_empty_of_passed {l : List (Bool × CoreError)} {s : State} {k : SlotIx} (h : firstFailure l = none)
    (hc : emptyCheck s k ∈ l) : (s.slotAt k).alg ≠ .empty :=
  not_of_passed h hc

theorem alg_eq_of_passed {l : List (Bool × CoreError)} {s : State} {k : SlotIx} {alg : Alg} (h : firstFailure l = none)
    (hc : engineCheck s k alg ∈ l) : (s.slotAt k).alg = alg :=
  not_not.1 (not_of_passed h hc)

theorem icodeSet_of_passed {l : List (Bool × CoreError)} {s : State} {k : SlotIx} (h : firstFailure l = none)
    (hc : (!(s.slotAt k).icodeSet, CoreError.noIcode k) ∈ l) : (s.slotAt k).icodeSet = true := by
  simpa using check_passed h hc

theorem le_res_of_passed {l : List (Bool × CoreError)} {s : State} {k : SlotIx} {n : Nat} {e : CoreError}
    (h : firstFailure l = none) (hc : (resourceShort s k n, e) ∈ l) : n ≤ (s.slotAt k).res.toNat :=
  Nat.le_of_not_lt (not_of_passed h hc)

/-- A destination that passes the range check holds no address outside `MEM` (R56). -/
theorem not_within_of_passed {l : List (Bool × CoreError)} {s : State} {dst : Addr} {n : Nat}
    (h : firstFailure l = none) (hc : dstCheck s dst n ∈ l) (x : Nat) (hx : s.cfg.memSize ≤ x) :
    ¬ within x dst.toNat n :=
  not_within_of_not_outsideMem (check_passed h hc) hx

/-! ## The frame of a command -/

/-- A command with opcode byte `op` begun in s completed in t: its body kept what it must, and then the one completion was
written, with success or with an error (R218, R221). -/
def Completes (op : Byte) (s t : State) : Prop :=
  ∃ u, Keeps s u ∧ (t = u.ended op ∨ ∃ e, t = (u.complete op (some e)).haltOn e)

theorem raise_completes {op : Byte} {e : CoreError} {s t : State} (h : raise op e s = .next t) : Completes op s t := by
  cases h
  exact ⟨s, .refl s, .inr ⟨e, rfl⟩⟩

/-- A command completes if its body, run when every check has passed, keeps what it must. -/
theorem runCommand_completes {op : Byte} {checks : List (Bool × CoreError)} {body : State → Res Unit} {s t : State}
    (h : runCommand op checks body s = .next t)
    (hbody : firstFailure (haltedCheck s :: checks) = none → (body s).Leaves (Keeps s)) : Completes op s t := by
  rcases runCommand_cases op checks body s with ⟨e, -, hr⟩ | ⟨hpassed, hr⟩ <;> rw [hr] at h
  · exact raise_completes h
  · have hleaves := hbody hpassed
    rcases (finish_eq_next op _ t).1 h with ⟨u, hu, rfl⟩ | ⟨e, u, hu, rfl⟩ <;> rw [hu] at hleaves
    · exact ⟨u, hleaves, .inl rfl⟩
    · exact ⟨u, hleaves, .inr ⟨e, rfl⟩⟩

end Sys2Proof.Machine
end

section
/-! SUPPORT. Every command but XTS completes: its body keeps the invariants and `FAULTS`. -/

namespace Sys2Proof.Machine

/-! ## Field arithmetic and tables -/

theorem execGfmul_completes {x y : Byte} {dst : Addr} {s t : State} (h : execGfmul x y dst s = .next t) :
    Completes 0x01 s t :=
  runCommand_completes h fun hp => (Keeps.refl s).store _ _ (not_within_of_passed hp (by simp))

theorem execTbuild_completes {s t : State} (h : execTbuild s = .next t) : Completes 0x02 s t :=
  runCommand_completes h fun _ => ⟨fun hs => { hs with }, rfl⟩

/-! ## The masked-key container -/

theorem algOfByte_ne_empty (b : Byte) : algOfByte b ≠ some .empty := by
  unfold algOfByte
  split
  · decide
  · split <;> decide

/-- Both resource limits of a legal configuration are below 2^63 (R7). -/
theorem initialResource_lt {s : State} (h : s.cfg.valid = true) (a : Alg) : (initialResource s a).toNat < 2 ^ 63 := by
  simp only [Config.valid, Bool.and_eq_true, decide_eq_true_eq] at h
  obtain ⟨⟨-, hkuz⟩, hmagma⟩ := h
  cases a with
  | magma => exact hmagma
  | _ => exact hkuz

theorem execKcreate_completes {ks : SlotIx} {alg : Byte} {s t : State} (h : execKcreate ks alg s = .next t) :
    Completes 0x10 s t := by
  refine runCommand_completes h fun hp => leaves_fill_bind (.refl s) _ _ fun m hk => hk.setSlot ks fun hs hsl => ?_
  have halg : algOfByte alg ≠ none := not_of_passed hp (e := .badAlgorithm ks) (by simp)
  refine inv_created _ _ _ _ _ hsl ?_ (initialResource_lt hs.config_valid _)
  cases ha : algOfByte alg with
  | none => exact absurd ha halg
  | some a => exact fun e => algOfByte_ne_empty alg (ha.trans (congrArg some e))

theorem execKload_completes {ks : SlotIx} {src : Addr} {s t : State} (h : execKload ks src s = .next t) :
    Completes 0x11 s t :=
  runCommand_completes h fun hp => leaves_readBytes_bind s _ _ fun bs =>
    (Keeps.refl s).setSlot ks fun _ hsl => inv_loaded _ _ _ hsl (alg_ne_empty_of_passed hp (by simp))
      (check_passed (c := ((s.slotAt ks).icodeSet, .alreadyLoaded ks)) hp (by simp))

/-- Re-masking a slot that holds a key keeps the invariants, and so does a re-masking that fails (R107, R220). -/
theorem remask_leaves (who : SlotIx) {k : SlotIx} {s : State} (ha : (s.slotAt k).alg ≠ .empty) :
    (remask who k s).Leaves (Keeps s) := by
  rcases remask_cases who k s with ⟨-, hr⟩ | ⟨j, -, -, -, hr⟩ <;> rw [hr]
  · exact ((Keeps.refl s).afterAnswers _).setSlot k fun _ hsl => inv_remaskedSlot hsl ha
  · exact (Keeps.refl s).afterAnswers _

theorem execKsetmask_completes {ks : SlotIx} {s t : State} (h : execKsetmask ks s = .next t) : Completes 0x12 s t :=
  runCommand_completes h fun hp => remask_leaves ks (alg_ne_empty_of_passed hp (by simp))

theorem execKunmask_completes {ks : SlotIx} {s t : State} (h : execKunmask ks s = .next t) : Completes 0x13 s t :=
  runCommand_completes h fun hp =>
    (Keeps.refl s).setSlot ks fun _ hsl => inv_unmasked hsl (alg_ne_empty_of_passed hp (by simp))

theorem execKseticode_completes {ks : SlotIx} {s t : State} (h : execKseticode ks s = .next t) : Completes 0x14 s t :=
  runCommand_completes h fun hp =>
    (Keeps.refl s).setSlot ks fun _ hsl => inv_certified hsl (alg_ne_empty_of_passed hp (by simp))

theorem execKchkicode_completes {ks : SlotIx} {s t : State} (h : execKchkicode ks s = .next t) : Completes 0x15 s t :=
  runCommand_completes h fun _ => Keeps.refl s

/-- A destroyed slot meets R32 whatever the draws left in the arrays of its engine: it has no schedule. -/
theorem execKdestroy_completes {ks : SlotIx} {s t : State} (h : execKdestroy ks s = .next t) : Completes 0x16 s t := by
  refine runCommand_completes h fun _ => leaves_fill_bind (.refl s) _ _ fun a hk => leaves_fill_bind hk _ _ fun b hk => ?_
  split
  · exact leaves_fill_bind hk _ _ fun d1 hk => leaves_fill_bind hk _ _ fun d2 hk => leaves_fill_bind hk _ _ fun d3 hk =>
      leaves_fill_bind hk _ _ fun d4 hk => hk.setSlot ks fun _ hsl =>
        inv_overwriteMg (inv_destroyed hsl a b) rfl d1 d2 d3 d4
  · exact leaves_fill_bind hk _ _ fun d1 hk => leaves_fill_bind hk _ _ fun d2 hk => leaves_fill_bind hk _ _ fun d3 hk =>
      leaves_fill_bind hk _ _ fun d4 hk => hk.setSlot ks fun _ hsl =>
        inv_overwriteKz (inv_destroyed hsl a b) rfl d1 d2 d3 d4

/-! ## The Kuznechik engine -/

theorem execKzSched_completes {ks : SlotIx} {s t : State} (h : execKzSched ks s = .next t) : Completes 0x20 s t :=
  runCommand_completes h fun hp => leaves_fill_bind (.refl s) _ _ fun d1 hk => leaves_fill_bind hk _ _ fun d2 hk =>
    hk.setSlot ks fun _ hsl => inv_kzScheduled _ _ d1 d2 hsl (alg_eq_of_passed (s := s) hp (by simp))
      (icodeSet_of_passed (s := s) hp (by simp [keyChecks]))

/-- The end of a single-block command: n bytes stored inside `MEM`, one unit of the resource spent (R141, R172). -/
theorem Keeps.storeSpend {s u : State} (hk : Keeps s u) {ks : SlotIx} {dst : Addr} {n : Nat} {bs : List Byte}
    (hlen : bs.length = n) (hdst : ∀ x, u.cfg.memSize ≤ x → ¬ within x dst.toNat n) (ha : (u.slotAt ks).alg ≠ .empty)
    (hres : 1 ≤ (u.slotAt ks).res.toNat) : Keeps s ((u.store dst.toNat bs).setSlot ks ((u.slotAt ks).spend 1)) := by
  subst hlen
  exact (hk.store _ _ hdst).setSlot ks fun _ hsl => inv_spend hsl ha 1 hres

theorem kzBlockBody_leaves (f : Slot → Block → Block) {ks : SlotIx} {src dst : Addr} {s : State}
    (hp : firstFailure (haltedCheck s :: kzBlockChecks ks src dst s) = none) :
    (kzBlockBody f ks src dst s).Leaves (Keeps s) := by
  have ha : (s.slotAt ks).alg ≠ .empty := alg_ne_empty_of_passed hp (by simp [kzBlockChecks])
  have hres : 1 ≤ (s.slotAt ks).res.toNat := le_res_of_passed hp (e := .dataResource ks) (by simp [kzBlockChecks])
  have hdst := not_within_of_passed (s := s) (dst := dst) (n := 16) hp (by simp [kzBlockChecks])
  rcases kzBlockBody_cases f ks src dst s with ⟨bs, -, hb⟩ | ⟨x, -, hb⟩ <;> rw [hb]
  · exact (Keeps.refl s).storeSpend (length_toBytes _ _) hdst ha hres
  · trivial

theorem execKzEnc_completes {ks : SlotIx} {src dst : Addr} {s t : State} (h : execKzEnc ks src dst s = .next t) :
    Completes 0x21 s t :=
  runCommand_completes h (kzBlockBody_leaves _)

theorem execKzDec_completes {ks : SlotIx} {src dst : Addr} {s t : State} (h : execKzDec ks src dst s = .next t) :
    Completes 0x22 s t :=
  runCommand_completes h (kzBlockBody_leaves _)

theorem execKzRemask_completes {ks : SlotIx} {s t : State} (h : execKzRemask ks s = .next t) : Completes 0x23 s t :=
  runCommand_completes h fun hp => remask_leaves ks (alg_ne_empty_of_passed hp (by simp))

theorem execKzDelkeys_completes {ks : SlotIx} {s t : State} (h : execKzDelkeys ks s = .next t) : Completes 0x24 s t :=
  runCommand_completes h fun _ => leaves_fill_bind (.refl s) _ _ fun d1 hk => leaves_fill_bind hk _ _ fun d2 hk =>
    leaves_fill_bind hk _ _ fun d3 hk => leaves_fill_bind hk _ _ fun d4 hk => hk.setSlot ks fun _ hsl =>
      inv_overwriteKz (inv_unscheduled hsl) rfl d1 d2 d3 d4

/-! ## The Magma engine -/

theorem execMgSched_completes {ks : SlotIx} {s t : State} (h : execMgSched ks s = .next t) : Completes 0x30 s t :=
  runCommand_completes h fun hp => leaves_fill_bind (.refl s) _ _ fun d1 hk => leaves_fill_bind hk _ _ fun d2 hk =>
    hk.setSlot ks fun _ hsl => inv_mgScheduled _ _ d1 d2 hsl (alg_eq_of_passed (s := s) hp (by simp))
      (icodeSet_of_passed (s := s) hp (by simp [keyChecks]))

theorem mgBlockBody_leaves (ord : List Nat) {ks : SlotIx} {src dst : Addr} {s : State}
    (hp : firstFailure (haltedCheck s :: mgBlockChecks ks src dst s) = none) :
    (mgBlockBody ord ks src dst s).Leaves (Keeps s) := by
  have ha : (s.slotAt ks).alg ≠ .empty := alg_ne_empty_of_passed hp (by simp [mgBlockChecks])
  have hres : 1 ≤ (s.slotAt ks).res.toNat := le_res_of_passed hp (e := .dataResource ks) (by simp [mgBlockChecks])
  have hdst := not_within_of_passed (s := s) (dst := dst) (n := 8) hp (by simp [mgBlockChecks])
  have hdrawn := fun n => (Keeps.refl s).afterAnswers n
  rcases mgBlockBody_cases ord ks src dst s with ⟨-, ⟨bs, -, hb⟩ | ⟨x, -, hb⟩⟩ | ⟨j, -, -, -, hb⟩ <;> rw [hb]
  · exact (hdrawn 32).storeSpend (length_toBytes _ _) hdst ha hres
  · trivial
  · exact hdrawn _

theorem execMgEnc_completes {ks : SlotIx} {src dst : Addr} {s t : State} (h : execMgEnc ks src dst s = .next t) :
    Completes 0x31 s t :=
  runCommand_completes h (mgBlockBody_leaves _)

theorem execMgDec_completes {ks : SlotIx} {src dst : Addr} {s t : State} (h : execMgDec ks src dst s = .next t) :
    Completes 0x32 s t :=
  runCommand_completes h (mgBlockBody_leaves _)

theorem execMgRemask_completes {ks : SlotIx} {s t : State} (h : execMgRemask ks s = .next t) : Completes 0x33 s t :=
  runCommand_completes h fun hp => remask_leaves ks (alg_ne_empty_of_passed hp (by simp))

theorem execMgDelkeys_completes {ks : SlotIx} {s t : State} (h : execMgDelkeys ks s = .next t) : Completes 0x34 s t :=
  runCommand_completes h fun _ => leaves_fill_bind (.refl s) _ _ fun d1 hk => leaves_fill_bind hk _ _ fun d2 hk =>
    leaves_fill_bind hk _ _ fun d3 hk => leaves_fill_bind hk _ _ fun d4 hk => hk.setSlot ks fun _ hsl =>
      inv_overwriteMg (inv_unscheduled hsl) rfl d1 d2 d3 d4

end Sys2Proof.Machine
end

section
/-! SUPPORT. The XTS commands complete, and so does every command and every presented descriptor. -/

namespace Sys2Proof.Machine

/-! ## The XTS tweak chain -/

/-- An attempt to re-mask a slot that holds a key keeps the invariants, whether or not its requests are answered. -/
theorem AttemptedRemask.keeps {k : SlotIx} {s u t : State} (h : AttemptedRemask k u t) (hk : Keeps s u)
    (ha : (u.slotAt k).alg ≠ .empty) : Keeps s t := by
  rcases h with ⟨-, rfl⟩ | ⟨j, -, -, -, rfl⟩
  · exact (hk.afterAnswers _).setSlot k fun _ hsl => inv_remaskedSlot hsl ha
  · exact hk.afterAnswers _

theorem AttemptedRemask.alg_slotAt {k : SlotIx} {s t : State} (h : AttemptedRemask k s t) (j : SlotIx) :
    (t.slotAt j).alg = (s.slotAt j).alg := by
  rcases h with ⟨-, rfl⟩ | ⟨i, -, -, -, rfl⟩
  · rcases slotAt_setSlot_cases (afterAnswers s (remaskDraws s k).length) k j (remaskedSlot s k) with
      h | ⟨rfl, h⟩ <;> rw [h]
    · rfl
    · exact remaskedSlot_alg s j
  · rfl

/-- The exit re-masking keeps the invariants when both slots hold a key, whatever came before it (R202). -/
theorem exitRemask_leaves (o : XtsOperands) (first : Option CoreError) {s u : State} (hk : Keeps s u)
    (hs : (u.slotAt o.ks).alg ≠ .empty) (ht : (u.slotAt o.kt).alg ≠ .empty) :
    (exitRemask o first u).Leaves (Keeps s) := by
  obtain ⟨v, t, hv, hvt, h⟩ := exitRemask_cases o first u
  have hkeeps : Keeps s t := hvt.keeps (hv.keeps hk hs) (by rwa [hv.alg_slotAt])
  rcases h with ⟨h, -⟩ | ⟨e, h, -⟩ <;> rw [h] <;> exact hkeeps

/-- Step 4 of R200: the two resource counters after the data blocks and the tweak's. -/
def xtsSpent (o : XtsOperands) (s : State) : State :=
  let s1 := s.setSlot o.ks ((s.slotAt o.ks).spend (xtsDataBlocks o s))
  s1.setSlot o.kt ((s1.slotAt o.kt).spend (xtsTweakBlocks o s))

/-- Everything steps 1 to 4 of R200 can do: with or without an error they make requests and write inside `dst`, and the
counters are spent when there is no error (R203). -/
theorem xtsProcess_cases (dir : Direction) (o : XtsOperands) (s : State) :
    (∃ n mem', (∀ a, ¬ within a o.dst.toNat o.len.toNat → memByte mem' a = memByte s.mem a) ∧
        (s.mem.wf = true → Memory.wf mem' = true) ∧
        (xtsProcess dir o s = .ok () (xtsSpent o { afterAnswers s n with mem := mem' }) ∨
          xtsProcess dir o s = .err (.entropy o.ks) { afterAnswers s n with mem := mem' })) ∨
      ∃ y, xtsProcess dir o s = .stop (.unwrittenRead y) := by
  unfold xtsProcess
  rcases readBytes_cases o.iv.toNat o.ivlen.toNat s with ⟨bs, -, hr⟩ | ⟨y, -, hr⟩ <;> rw [hr] <;> simp only [Res.bind]
  swap
  · exact .inr ⟨y, rfl⟩
  rcases initialTweak_cases o.ks o.kt (ofBytes 128 bs) s with ⟨x, -, hf⟩ | ⟨j, -, -, -, hf⟩ <;> rw [hf] <;> simp only []
  swap
  · exact .inl ⟨j + 1, s.mem, fun _ _ => rfl, id, .inr rfl⟩
  generalize hu : afterAnswers s (2 * rawDraws s o.kt) = u
  have hwithin : ∀ a, ¬ within a o.dst.toNat o.len.toNat →
      ¬ within a (o.dst.toNat + xtsBlockSize o u * 0) (xtsBlockSize o u * xtsDataBlocks o u) := fun a ha => by
    have : xtsBlockSize o u * xtsDataBlocks o u ≤ o.len.toNat := Nat.mul_div_le _ _
    unfold within at *
    omega
  have hmem : u.mem = s.mem := by rw [← hu]; rfl
  have hlater : ∀ n mem', ({ afterAnswers u n with mem := mem' } : State) =
      { afterAnswers s (2 * rawDraws s o.kt + n) with mem := mem' } := fun n mem' => by
    rw [← hu, afterAnswers_add]
  rcases xtsBlocks_cases dir o.ks o.src.toNat o.dst.toNat (xtsBlockSize o u) (xtsDataBlocks o u) 0 x u with
    ⟨mem', hframe, hwf, h⟩ | ⟨y, hy⟩
  swap
  · rw [hy]
    exact .inr ⟨y, rfl⟩
  rw [hmem] at hframe hwf
  rcases h with ⟨-, h⟩ | ⟨j, -, -, -, h⟩ <;> rw [h, hlater]
  · exact .inl ⟨_, mem', fun a ha => hframe a (hwithin a ha), hwf, .inl rfl⟩
  · exact .inl ⟨_, mem', fun a ha => hframe a (hwithin a ha), hwf, .inr rfl⟩

theorem alg_slotAt_xtsSpent (o : XtsOperands) (s : State) (k : SlotIx) :
    ((xtsSpent o s).slotAt k).alg = (s.slotAt k).alg := by
  have hspend : ∀ (u : State) (j : SlotIx) (n : Nat),
      ((u.setSlot j ((u.slotAt j).spend n)).slotAt k).alg = (u.slotAt k).alg := fun u j n => by
    rcases slotAt_setSlot_cases u j k ((u.slotAt j).spend n) with h | ⟨rfl, h⟩ <;> rw [h]
    rfl
  exact (hspend _ _ _).trans (hspend _ _ _)

theorem Keeps.xtsSpent {o : XtsOperands} {s u : State} (hk : Keeps s u) (hne : o.ks ≠ o.kt)
    (hs : (u.slotAt o.ks).alg ≠ .empty) (ht : (u.slotAt o.kt).alg ≠ .empty)
    (hrs : xtsDataBlocks o u ≤ (u.slotAt o.ks).res.toNat) (hrt : xtsTweakBlocks o u ≤ (u.slotAt o.kt).res.toNat) :
    Keeps s (xtsSpent o u) := by
  unfold Machine.xtsSpent
  dsimp only
  refine (hk.setSlot o.ks fun _ hsl => inv_spend hsl hs _ hrs).setSlot o.kt fun _ hsl => ?_
  rw [slotAt_setSlot_ne _ _ _ _ (Ne.symm hne)] at hsl ⊢
  exact inv_spend hsl ht _ hrt

theorem xtsBody_leaves (dir : Direction) {o : XtsOperands} {s : State}
    (hp : firstFailure (haltedCheck s :: xtsChecks o s) = none) : (xtsBody dir o s).Leaves (Keeps s) := by
  have hs : (s.slotAt o.ks).alg ≠ .empty := alg_ne_empty_of_passed hp (by simp [xtsChecks])
  have ht : (s.slotAt o.kt).alg ≠ .empty := not_of_passed hp (e := .emptyTweak o.kt) (by simp [xtsChecks])
  have hne : o.ks ≠ o.kt := not_of_passed hp (e := .sameSlot o.ks) (by simp [xtsChecks])
  have hrs : xtsDataBlocks o s ≤ (s.slotAt o.ks).res.toNat :=
    le_res_of_passed hp (e := .dataResource o.ks) (by simp [xtsChecks])
  have hrt : xtsTweakBlocks o s ≤ (s.slotAt o.kt).res.toNat :=
    le_res_of_passed hp (e := .tweakResource o.kt) (by simp [xtsChecks])
  have hdst := not_within_of_passed (s := s) (dst := o.dst) (n := o.len.toNat) hp (by simp [xtsChecks])
  unfold xtsBody
  rcases xtsProcess_cases dir o s with ⟨n, mem', hframe, hwf, h⟩ | ⟨y, hy⟩
  swap
  · rw [hy]
    trivial
  have hk : Keeps s { afterAnswers s n with mem := mem' } :=
    ((Keeps.refl s).afterAnswers n).withMem hwf fun a ha => hframe a (hdst a ha)
  rcases h with h | h <;> rw [h]
  · exact exitRemask_leaves o none (hk.xtsSpent hne hs ht hrs hrt) (by rwa [alg_slotAt_xtsSpent])
      (by rwa [alg_slotAt_xtsSpent])
  · exact exitRemask_leaves o _ (hk.scramble _ _ hdst) hs ht

theorem execXtsEnc_completes {ks kt : SlotIx} {src dst : Addr} {len : Word} {iv : Addr} {ivlen : Byte} {s t : State}
    (h : execXtsEnc ks kt src dst len iv ivlen s = .next t) : Completes 0x40 s t :=
  runCommand_completes h (xtsBody_leaves .encrypt)

theorem execXtsDec_completes {ks kt : SlotIx} {src dst : Addr} {len : Word} {iv : Addr} {ivlen : Byte} {s t : State}
    (h : execXtsDec ks kt src dst len iv ivlen s = .next t) : Completes 0x41 s t :=
  runCommand_completes h (xtsBody_leaves .decrypt)

/-! ## Every command -/

/-- Every command that ends in a next state has completed. -/
theorem exec_completes {i : Instr} {s t : State} (h : exec i s = .next t) : Completes (opcodeOf i) s t := by
  cases i with
  | gfmul => exact execGfmul_completes h
  | tbuild => exact execTbuild_completes h
  | kcreate => exact execKcreate_completes h
  | kload => exact execKload_completes h
  | ksetmask => exact execKsetmask_completes h
  | kunmask => exact execKunmask_completes h
  | kseticode => exact execKseticode_completes h
  | kchkicode => exact execKchkicode_completes h
  | kdestroy => exact execKdestroy_completes h
  | kzSched => exact execKzSched_completes h
  | kzEnc => exact execKzEnc_completes h
  | kzDec => exact execKzDec_completes h
  | kzRemask => exact execKzRemask_completes h
  | kzDelkeys => exact execKzDelkeys_completes h
  | mgSched => exact execMgSched_completes h
  | mgEnc => exact execMgEnc_completes h
  | mgDec => exact execMgDec_completes h
  | mgRemask => exact execMgRemask_completes h
  | mgDelkeys => exact execMgDelkeys_completes h
  | xtsEnc => exact execXtsEnc_completes h
  | xtsDec => exact execXtsDec_completes h

/-- Every presented descriptor that ends in a next state has completed: as the command it is, or with an error of
the port (R73, R222). -/
theorem perform_command_completes {d : Descriptor} {s t : State} (h : perform (.command d) s = .next t) :
    ∃ op, Completes op s t := by
  unfold perform at h
  dsimp only at h
  split at h
  · exact ⟨_, raise_completes h⟩
  · exact ⟨_, exec_completes h⟩

end Sys2Proof.Machine
end

section
/-! PROOFS. The invariants of R32 in every reachable state, and the sticky bits of `FAULTS` (R38). -/

namespace Sys2Proof.Machine

/-! ## The invariants in every reachable state (R32) -/

/-- A completion keeps the invariants. -/
theorem Completes.inv {op : Byte} {s t : State} (h : Completes op s t) (hs : s.Inv) : t.Inv := by
  obtain ⟨u, hk, rfl | ⟨e, rfl⟩⟩ := h
  · exact (hk.inv hs).ended op
  · exact (hk.inv hs).failed op e

theorem hostWrite_eq_next {a : Addr} {bs : List Byte} {s t : State} (h : hostWrite a bs s = .next t) :
    insideMem s a bs.length = true ∧ t = s.store a.toNat bs := by
  unfold hostWrite at h
  split at h <;> cases h
  exact ⟨‹_›, rfl⟩

theorem hostRead_eq_next {a : Addr} {n : Nat} {s t : State} (h : hostRead a n s = .next t) :
    ∃ bs, t = { s with reply := .bytes bs } := by
  unfold hostRead at h
  split at h
  · split at h <;> cases h
    exact ⟨_, rfl⟩
  · cases h

theorem platformReset_eq_next {cfg : Config} {s t : State} (h : platformReset cfg s = .next t) :
    cfg.valid = true ∧
      t = { State.resetWith cfg with
            port := s.port, entropy := s.entropy, fills := s.fills, freeBytes := s.freeBytes } := by
  unfold platformReset at h
  split at h <;> cases h
  exact ⟨‹_›, rfl⟩

/-- Whatever the host or the platform does, the invariants are kept. -/
theorem perform_keeps_inv {a : HostAction} {s t : State} (hs : s.Inv) (h : perform a s = .next t) : t.Inv := by
  cases a with
  | command d =>
    obtain ⟨op, hc⟩ := perform_command_completes h
    exact hc.inv hs
  | write a bs =>
    obtain ⟨hin, rfl⟩ := hostWrite_eq_next h
    refine hs.store _ _ fun x hx => ?_
    have hle : a.toNat + bs.length ≤ s.cfg.memSize := of_decide_eq_true hin
    unfold within
    omega
  | read a n =>
    obtain ⟨bs, rfl⟩ := hostRead_eq_next h
    exact { hs with }
  | status off =>
    cases h
    exact { hs with }
  | reset cfg =>
    obtain ⟨hv, rfl⟩ := platformReset_eq_next h
    exact { inv_resetWith hv with }

/-- A step waits, or performs the action that stands first at the port. -/
theorem step_cases (s : State) :
    (s.port = [] ∧ step s = .next s) ∨
      ∃ a rest, s.port = a :: rest ∧ step s = perform a { s with port := rest } := by
  unfold step State.takeAction
  cases hp : s.port with
  | nil => exact .inl ⟨rfl, rfl⟩
  | cons a rest => exact .inr ⟨a, rest, rfl, rfl⟩

theorem step_keeps_inv {s t : State} (hs : s.Inv) (h : step s = .next t) : t.Inv := by
  rcases step_cases s with ⟨-, hstep⟩ | ⟨a, rest, -, hstep⟩ <;> rw [hstep] at h
  · cases h
    exact hs
  · exact perform_keeps_inv (s := { s with port := rest }) { hs with } h

/-- Settles O13: the invariants hold after every legal reset, and every action of the host keeps them. -/
theorem invariantsHoldInEveryReachableState : Obligations.InvariantsHoldInEveryReachableState :=
  ⟨fun _ => inv_resetWith, fun _ _ => step_keeps_inv⟩

/-! ## FAULTS (R38) -/

/-- What a completion leaves in `STATUS.code` and `FAULTS`: no error and no bit, or an error's code and its bit. -/
theorem Completes.code_faults {op : Byte} {s t : State} (h : Completes op s t) :
    (t.code = 0 ∧ t.faults = s.faults) ∨
      ∃ e : CoreError, t.code = BitVec.ofNat 8 e.code ∧ t.faults = s.faults ||| e.faultBit := by
  obtain ⟨u, hk, rfl | ⟨e, rfl⟩⟩ := h
  · exact .inl ⟨rfl, hk.faults⟩
  · exact .inr ⟨e, by simp, by simp [hk.faults]⟩

theorem ofNat_code_ne_zero (e : CoreError) : BitVec.ofNat 8 e.code ≠ 0 := fun h => by
  have := congrArg BitVec.toNat h
  rw [toNat_ofNat_code] at this
  exact absurd this (Nat.ne_of_gt e.code_pos.1)

/-- The bit of the code that was reported is set. -/
theorem Completes.bit_of_code {op : Byte} {s t : State} (h : Completes op s t) {c : Nat}
    (hc : t.code = BitVec.ofNat 8 c) (hpos : 1 ≤ c) (hle : c ≤ 8) : t.faults.getLsbD c = true := by
  have hnat : t.code.toNat = c := by
    rw [hc, BitVec.toNat_ofNat]
    omega
  rcases h.code_faults with ⟨h0, -⟩ | ⟨e, hcode, hf⟩
  · rw [h0] at hnat
    exact absurd hnat.symm (Nat.ne_of_gt hpos)
  · rw [hcode, toNat_ofNat_code] at hnat
    rw [hf, ← hnat, BitVec.getLsbD_or, getLsbD_faultBit_code, Bool.or_true]

/-- `FAULTS` is 0 after a completion exactly when it was 0 and the command did not fail. -/
theorem Completes.faults_eq_zero_iff {op : Byte} {s t : State} (h : Completes op s t) :
    t.faults = 0 ↔ s.faults = 0 ∧ t.code = 0 := by
  rcases h.code_faults with ⟨h0, hf⟩ | ⟨e, hcode, hf⟩
  · simp [h0, hf]
  · have hbit : t.faults.getLsbD e.code = true := h.bit_of_code hcode e.code_pos.1 e.code_pos.2
    constructor
    · intro hz
      rw [hz] at hbit
      simp at hbit
    · rintro ⟨-, h0⟩
      exact absurd (hcode.symm.trans h0) (ofNat_code_ne_zero e)

/-- A completion clears no bit. -/
theorem Completes.faults_sticky {op : Byte} {s t : State} (h : Completes op s t) {c : Nat}
    (hc : s.faults.getLsbD c = true) : t.faults.getLsbD c = true := by
  rcases h.code_faults with ⟨-, hf⟩ | ⟨e, -, hf⟩ <;> rw [hf]
  · exact hc
  · rw [BitVec.getLsbD_or, hc, Bool.true_or]

/-- No action of the host but a reset clears a bit. -/
theorem perform_faults_sticky {a : HostAction} {s t : State} {c : Nat} (h : perform a s = .next t)
    (hc : s.faults.getLsbD c = true) : t.faults.getLsbD c = true ∨ ∃ cfg, a = .reset cfg := by
  cases a with
  | command d =>
    obtain ⟨op, hcomp⟩ := perform_command_completes h
    exact .inl (hcomp.faults_sticky hc)
  | write a bs =>
    obtain ⟨-, rfl⟩ := hostWrite_eq_next h
    exact .inl hc
  | read a n =>
    obtain ⟨bs, rfl⟩ := hostRead_eq_next h
    exact .inl hc
  | status off =>
    cases h
    exact .inl hc
  | reset cfg => exact .inr ⟨cfg, rfl⟩

/-- Bits 0 and 31:9 of `FAULTS` read as 0 in a state that meets the invariants. -/
theorem State.Inv.faults_unused {s : State} (h : s.Inv) {c : Nat} (hc : c = 0 ∨ 9 ≤ c) : s.faults.getLsbD c = false := by
  by_cases hlt : c < 32
  · have hunused : (0xFFFFFE01 : Word).getLsbD c = true := by
      rcases hc with rfl | hc
      · rfl
      · interval_cases c <;> rfl
    have hand : (s.faults &&& 0xFFFFFE01).getLsbD c = false := by rw [h.faults_bits]; exact BitVec.getLsbD_zero
    rwa [BitVec.getLsbD_and, hunused, Bool.and_true] at hand
  · exact BitVec.getLsbD_of_ge _ _ (Nat.le_of_not_lt hlt)

/-- Settles O15: a completion sets the bit of its code and clears none, no other action but reset writes `FAULTS`, and the
invariant leaves the unused bits clear. -/
theorem faultsAreSticky : Obligations.FaultsAreSticky :=
  ⟨fun _ _ _ _ h => (exec_completes h).bit_of_code,
    fun _ _ _ h =>
      have ⟨_, hcomp⟩ := perform_command_completes h
      ⟨fun _ => hcomp.bit_of_code, hcomp.faults_eq_zero_iff⟩,
    fun _ _ _ _ => perform_faults_sticky,
    fun _ _ h => h.faults_unused⟩

end Sys2Proof.Machine
end

section
/-! PROOFS. The host's accesses to `MEM` and to the status space, and their limits (R64). -/

namespace Sys2Proof.Machine

/-- Bytes stored are read back. -/
theorem memRead_store (s : State) (a : Nat) (bs : List Byte) :
    memRead (s.store a bs).mem a bs.length = .ok bs :=
  (memRead_eq_ok _ _ _ _).2 ⟨rfl, memByte_store_of_within s a bs⟩

theorem insideMem_iff (s : State) (a : Addr) (n : Nat) : insideMem s a n = true ↔ a.toNat + n ≤ s.cfg.memSize :=
  decide_eq_true_iff

/-! ## The host's moves, one equation per outcome -/

theorem hostWrite_of_insideMem {s : State} {a : Addr} {bs : List Byte} (h : insideMem s a bs.length = true) :
    hostWrite a bs s = .next (s.store a.toNat bs) :=
  if_pos h

theorem hostWrite_of_not_insideMem {s : State} {a : Addr} {bs : List Byte} (h : ¬ insideMem s a bs.length = true) :
    hostWrite a bs s = .refused .hostOutsideMemory :=
  if_neg h

theorem hostRead_of_memRead_eq_ok {s : State} {a : Addr} {n : Nat} {bs : List Byte} (h : insideMem s a n = true)
    (hr : memRead s.mem a.toNat n = .ok bs) : hostRead a n s = .next { s with reply := .bytes bs } := by
  rw [hostRead, if_pos h, hr]

theorem hostRead_of_not_insideMem {s : State} {a : Addr} {n : Nat} (h : ¬ insideMem s a n = true) :
    hostRead a n s = .refused .hostOutsideMemory :=
  if_neg h

/-- Settles O10: a host write is a store, so the memory laws say what it writes and what it leaves; a host read and a
status read answer what they found; an access that does not lie inside `MEM` is refused. -/
theorem hostAccess : Obligations.HostAccess := by
  intro s a bs off
  refine ⟨fun hle => ?inside, fun hlt => ?outside, rfl⟩
  case inside =>
    have hin : insideMem s a bs.length = true := (insideMem_iff s a bs.length).2 hle
    exact ⟨⟨s.store a.toNat bs, hostWrite_of_insideMem hin, rfl, memRead_store s a.toNat bs,
      memByte_store_of_not_within s a.toNat bs⟩, hostRead_of_memRead_eq_ok hin⟩
  case outside =>
    have hout : ¬ insideMem s a bs.length = true := fun h =>
      Nat.not_le_of_gt hlt ((insideMem_iff s a bs.length).1 h)
    exact ⟨hostWrite_of_not_insideMem hout, hostRead_of_not_insideMem hout⟩

end Sys2Proof.Machine
end

section
/-! SUPPORT. The decoder's outcomes as conditions on the descriptor's bits: the rows against the `match` and `mask` of R75,
the slot constraint of R72, and the step of an illegal descriptor. -/

namespace Sys2Proof

/-! ## The match and the mask of a row -/

theorem fieldsOf_inj {d e : Descriptor} : fieldsOf d = fieldsOf e ↔ d = e :=
  ⟨fun h => by rw [← packFields_fieldsOf d, h, packFields_fieldsOf], congrArg fieldsOf⟩

/-- The `match` of R75 as a number: the opcode at bit 152, zeros below it. -/
theorem ofNat_opcode_eq_rowPattern (op : Byte) : BitVec.ofNat 160 (op.toNat * 2 ^ 152) = rowPattern op := by
  have hlt : op.toNat < 256 := op.isLt
  apply BitVec.eq_of_toNat_eq
  simp only [rowPattern, packFields, bareFields, BitVec.toNat_append, BitVec.toNat_ofNat, BitVec.ofNat_eq_ofNat,
    Nat.zero_mod, Nat.or_zero, Nat.shiftLeft_eq]
  omega

/-- Masking keeps the opcode and the unused fields and clears the used ones (R75): what is left is a row's `match` exactly
when the opcode is the row's and R71 holds. -/
theorem and_formatMask_eq_rowPattern_iff (d : Descriptor) (fmt : Format) (op : Byte) :
    d &&& formatMask fmt = rowPattern op ↔ Machine.issuedOp d = op ∧ unusedZero fmt (fieldsOf d) = true := by
  have keep4 (x : BitVec 4) : x &&& 15#4 = x := BitVec.and_allOnes
  have keep8 (x : BitVec 8) : x &&& 255#8 = x := BitVec.and_allOnes
  have keep32 (x : BitVec 32) : x &&& 4294967295#32 = x := BitVec.and_allOnes
  rw [← fieldsOf_inj, rowPattern, fieldsOf_packFields]
  cases fmt <;>
    simp [Machine.issuedOp, fieldsOf, bareFields, unusedZero, formatMask, BitVec.extractLsb'_and, keep4, keep8, keep32,
      and_assoc]

/-! ## The opcode map and the table of masks -/

theorem eq_ofNat_of_toNat_eq {w n : Nat} {x : BitVec w} (h : x.toNat = n) : x = BitVec.ofNat w n := by
  rw [← h, BitVec.ofNat_toNat, BitVec.setWidth_eq]

/-- Every row of the opcode map stands in the table with its format's mask, and builds commands of its own opcode. -/
theorem mem_and_opcodeOf_of_opcodeRow {op : Byte} {r : OpcodeRow} (h : opcodeRow op = some r) :
    (op, formatMask r.format) ∈ Machine.opcodeMasks ∧ ∀ f, opcodeOf (r.build f) = op := by
  unfold opcodeRow at h
  split at h <;> cases h
  all_goals
    rename_i hop
    obtain rfl := eq_ofNat_of_toNat_eq hop
    exact ⟨by decide, fun _ => rfl⟩

theorem opcodeRow_of_mem {op : Byte} {mask : Descriptor} (h : (op, mask) ∈ Machine.opcodeMasks) :
    ∃ r, opcodeRow op = some r ∧ formatMask r.format = mask := by
  have rows : ∀ p ∈ Machine.opcodeMasks, ∃ r, opcodeRow p.1 = some r ∧ formatMask r.format = p.2 := by
    intro p hp
    fin_cases hp
    all_goals exact ⟨_, rfl, rfl⟩
  exact rows _ h

/-! ## The three refusals and the command -/

theorem decode_of_no_row {d : Descriptor} (h : opcodeRow (Machine.issuedOp d) = none) : decode d = .error .opcode := by
  simp only [decode, decodeFields]
  rw [show opcodeRow (fieldsOf d).op = none from h]

theorem decode_of_row {d : Descriptor} {r : OpcodeRow} (h : opcodeRow (Machine.issuedOp d) = some r) :
    decode d = if unusedZero r.format (fieldsOf d) then .ok (r.build (fieldsOf d)) else .error .mustBeZero := by
  simp only [decode, decodeFields]
  rw [show opcodeRow (fieldsOf d).op = some r from h]

theorem decode_eq_ok_iff (d : Descriptor) (i : Instr) :
    decode d = .ok i ↔ ∃ r, opcodeRow (Machine.issuedOp d) = some r ∧ unusedZero r.format (fieldsOf d) = true ∧
      r.build (fieldsOf d) = i := by
  cases h : opcodeRow (Machine.issuedOp d) with
  | none => simp [decode_of_no_row h]
  | some r => by_cases hz : unusedZero r.format (fieldsOf d) = true <;> simp [decode_of_row h, hz]

/-- The opcode of a decoded command is the one issued. -/
theorem opcodeOf_of_decode {d : Descriptor} {i : Instr} (h : decode d = .ok i) : opcodeOf i = Machine.issuedOp d := by
  obtain ⟨r, hr, -, rfl⟩ := (decode_eq_ok_iff d i).1 h
  exact (mem_and_opcodeOf_of_opcodeRow hr).2 _

/-- R70: no row of the table. -/
theorem decode_of_not_mem {d : Descriptor} (h : ∀ mask, (Machine.issuedOp d, mask) ∉ Machine.opcodeMasks) :
    decode d = .error .opcode := by
  cases hr : opcodeRow (Machine.issuedOp d) with
  | none => exact decode_of_no_row hr
  | some r => exact absurd (mem_and_opcodeOf_of_opcodeRow hr).1 (h _)

/-- R71: a row of the table whose `mask` does not leave its `match`. -/
theorem decode_of_mask_ne {d mask : Descriptor} (hm : (Machine.issuedOp d, mask) ∈ Machine.opcodeMasks)
    (hne : d &&& mask ≠ rowPattern (Machine.issuedOp d)) : decode d = .error .mustBeZero := by
  obtain ⟨r, hr, rfl⟩ := opcodeRow_of_mem hm
  rw [decode_of_row hr, if_neg fun hz => hne ((and_formatMask_eq_rowPattern_iff d r.format _).2 ⟨rfl, hz⟩)]

/-- R75: a row's `mask` leaves its `match` exactly when the descriptor is a command of that row. -/
theorem and_mask_eq_rowPattern_iff {d mask : Descriptor} {op : Byte} (hm : (op, mask) ∈ Machine.opcodeMasks) :
    d &&& mask = rowPattern op ↔ ∃ i, decode d = .ok i ∧ opcodeOf i = op := by
  obtain ⟨r, hr, rfl⟩ := opcodeRow_of_mem hm
  rw [and_formatMask_eq_rowPattern_iff]
  constructor
  · rintro ⟨rfl, hz⟩
    have hd : decode d = .ok (r.build (fieldsOf d)) := (decode_eq_ok_iff _ _).2 ⟨r, hr, hz, rfl⟩
    exact ⟨_, hd, opcodeOf_of_decode hd⟩
  · rintro ⟨i, hd, rfl⟩
    obtain ⟨r', hr', hz, -⟩ := (decode_eq_ok_iff d i).1 hd
    rw [opcodeOf_of_decode hd] at hr ⊢
    obtain rfl : r = r' := Option.some.inj (hr.symm.trans hr')
    exact ⟨rfl, hz⟩

/-! ## The constraint on the slots -/

theorem wellFormed_eq_all_slotFields (n : Nat) (i : Instr) : i.wellFormed n = (slotFields i).all (slotBelow n) := by
  cases i <;> simp [Instr.wellFormed, slotFields]

theorem find?_slotFields_eq_none_iff (n : Nat) (i : Instr) :
    ((slotFields i).find? fun k => !slotBelow n k) = none ↔ i.wellFormed n = true := by
  simp [wellFormed_eq_all_slotFields]

theorem decodeIssued_of_decode_error {n : Nat} {d : Descriptor} {e : Illegal} (h : decode d = .error e) :
    decodeIssued n d = .error e := by
  simp only [decodeIssued, h]

theorem decodeIssued_of_decode {n : Nat} {d : Descriptor} {i : Instr} (h : decode d = .ok i) :
    decodeIssued n d = ((slotFields i).find? fun k => !slotBelow n k).elim (.ok i) fun k => .error (.slotRange k) := by
  simp only [decodeIssued, h, slotBelow]
  split <;> rename_i hf <;> rw [hf] <;> rfl

/-- R72 is the one constraint that `N_SLOTS` adds. -/
theorem decodeIssued_eq_ok_iff (n : Nat) (d : Descriptor) (i : Instr) :
    decodeIssued n d = .ok i ↔ decode d = .ok i ∧ i.wellFormed n = true := by
  cases hd : decode d with
  | error e => simp [decodeIssued_of_decode_error hd]
  | ok j =>
    rw [decodeIssued_of_decode hd, Except.ok.injEq, and_comm, ← find?_slotFields_eq_none_iff]
    constructor
    · intro h
      cases hf : (slotFields j).find? fun k => !slotBelow n k with
      | none =>
        rw [hf] at h
        cases h
        exact ⟨hf, rfl⟩
      | some k =>
        rw [hf] at h
        cases h
    · rintro ⟨hf, rfl⟩
      rw [hf]
      rfl

end Sys2Proof

namespace Sys2Proof.Machine

/-! ## The step of an illegal descriptor -/

theorem step_command {s : State} {rest : List HostAction} {d : Descriptor} (hp : s.port = .command d :: rest) :
    step s = perform (.command d) { s with port := rest } := by
  rw [step, State.takeAction, hp]

/-- An illegal descriptor on a core that is not HALTED completes with its error; the status registers alone are written. -/
theorem step_illegal {s : State} {rest : List HostAction} {d : Descriptor} {e : Illegal}
    (hp : s.port = .command d :: rest) (hh : s.halted = false) (he : decodeIssued s.cfg.nSlots d = .error e) :
    step s = .next (({ s with port := rest } : State).endedWith (issuedOp d) (illegalError e).code (illegalError e).sub
      (illegalError e).slot) := by
  have hpres : presented { s with port := rest } d = .error (illegalError e) := by
    simp [presented, hh, he]
  have hne : illegalError e ≠ .noTables := by cases e <;> exact nofun
  rw [step_command hp, perform, hpres]
  dsimp only
  rw [raise_eq, decide_eq_false hne, Bool.or_false]
  rfl

end Sys2Proof.Machine
end

section
/-! PROOFS. The match and mask of the opcode table (R75), and the illegal descriptors (R70 to R72). -/

namespace Sys2Proof.Machine

/-- Settles O3: the row's `mask` leaves the fields R71 speaks of, and the slot constraint is what `N_SLOTS` adds. -/
theorem matchAndMaskDecideTheCommand : Obligations.MatchAndMaskDecideTheCommand := by
  intro d op mask hm
  rw [ofNat_opcode_eq_rowPattern]
  exact ⟨and_mask_eq_rowPattern_iff hm, fun n i => decodeIssued_eq_ok_iff n d i⟩

/-- Settles O7: each clause names the decoder's error, and an illegal descriptor completes with that error alone. -/
theorem illegalDescriptorChangesOnlyStatus : Obligations.IllegalDescriptorChangesOnlyStatus := by
  intro s rest d hp hh
  refine ⟨fun hop => ?opcode, fun mask hm hne => ?mustBeZero, fun i ks kts hd hs hks => ?dataSlot,
    fun i ks kt hd hs hks hkt => ?tweakSlot⟩
  case opcode => exact step_illegal hp hh (decodeIssued_of_decode_error (decode_of_not_mem hop))
  case mustBeZero =>
    rw [ofNat_opcode_eq_rowPattern] at hne
    exact step_illegal hp hh (decodeIssued_of_decode_error (decode_of_mask_ne hm hne))
  case dataSlot =>
    have he : decodeIssued s.cfg.nSlots d = .error (.slotRange ks) := by
      rw [decodeIssued_of_decode hd, hs, List.find?_cons_of_pos (by simpa [slotBelow] using hks)]
      rfl
    exact step_illegal hp hh he
  case tweakSlot =>
    have he : decodeIssued s.cfg.nSlots d = .error (.slotRange kt) := by
      rw [decodeIssued_of_decode hd, hs, List.find?_cons_of_neg (by simpa [slotBelow] using hks),
        List.find?_cons_of_pos (by simpa [slotBelow] using hkt)]
      rfl
    exact step_illegal hp hh he

end Sys2Proof.Machine
end

section
/-! SUPPORT. The multiplier of R81 is the multiplication of the field of R80: it is linear in each operand, doubling
passes through it, and every byte is a sum of doublings of 1. -/

namespace Sys2Proof.Machine

/-! ## Doubling and the loop -/

/-- A byte taken on a bit is additive in the bit. -/
theorem ite_bxor (p q : Bool) (c : Byte) :
    (if (p ^^ q) then c else 0) = (if p then c else 0) ^^^ (if q then c else 0) := by
  cases p <;> cases q <;> simp

theorem gfDouble_eq (x : Byte) : gfDouble x = x <<< 1 ^^^ if x.getLsbD 7 then 0xC3 else 0 := by
  rw [gfDouble]
  split <;> simp

theorem gfMulLoop_succ (n : Nat) (x y z : Byte) :
    gfMulLoop (n + 1) x y z = gfMulLoop n (gfDouble x) (y >>> 1) (z ^^^ if y.getLsbD 0 then x else 0) := by
  rw [gfMulLoop]
  split <;> simp

theorem gfDouble_xor (x y : Byte) : gfDouble (x ^^^ y) = gfDouble x ^^^ gfDouble y := by
  rw [gfDouble_eq, gfDouble_eq, gfDouble_eq, BitVec.shiftLeft_xor_distrib, BitVec.getLsbD_xor, ite_bxor]
  ac_rfl

/-- The loop is additive in x and z together. -/
theorem gfMulLoop_xor_left (n : Nat) (x x' y z z' : Byte) :
    gfMulLoop n (x ^^^ x') y (z ^^^ z') = gfMulLoop n x y z ^^^ gfMulLoop n x' y z' := by
  induction n generalizing x x' y z z' with
  | zero => rfl
  | succ n ih =>
    rw [gfMulLoop, gfMulLoop, gfMulLoop, ← ih, gfDouble_xor]
    congr 1
    split
    · ac_rfl
    · rfl

/-- The loop is additive in y and z together. -/
theorem gfMulLoop_xor_right (n : Nat) (x y y' z z' : Byte) :
    gfMulLoop n x (y ^^^ y') (z ^^^ z') = gfMulLoop n x y z ^^^ gfMulLoop n x y' z' := by
  induction n generalizing x y y' z z' with
  | zero => rfl
  | succ n ih =>
    rw [gfMulLoop_succ, gfMulLoop_succ, gfMulLoop_succ, ← ih, BitVec.ushiftRight_xor_distrib, BitVec.getLsbD_xor,
      ite_bxor]
    congr 1
    ac_rfl

theorem gfMulLoop_gfDouble (n : Nat) (x y z : Byte) :
    gfMulLoop n (gfDouble x) y (gfDouble z) = gfDouble (gfMulLoop n x y z) := by
  induction n generalizing x y z with
  | zero => rfl
  | succ n ih =>
    rw [gfMulLoop, gfMulLoop, ← ih, apply_ite gfDouble, gfDouble_xor]

theorem gfMulLoop_zero_right (n : Nat) (x z : Byte) : gfMulLoop n x 0 z = z := by
  induction n generalizing x with
  | zero => rfl
  | succ n ih => exact ih (gfDouble x)

/-- What holds of x and z, is kept by doubling and is kept by sums holds of the loop's result. -/
theorem gfMulLoop_induction {P : Byte → Prop} (double : ∀ x, P x → P (gfDouble x))
    (add : ∀ x y, P x → P y → P (x ^^^ y)) (n : Nat) (x y z : Byte) (hx : P x) (hz : P z) : P (gfMulLoop n x y z) := by
  induction n generalizing x y z with
  | zero => exact hz
  | succ n ih =>
    refine ih _ _ _ (double x hx) ?_
    split
    · exact add z x hz hx
    · exact hz

/-! ## The laws of the multiplier (R82) -/

theorem gfMul_zero (x : Byte) : gfMul x 0 = 0 :=
  gfMulLoop_zero_right 8 x 0

theorem gfMul_one (x : Byte) : gfMul x 1 = x := by
  have h : gfMul x 1 = 0 ^^^ x := gfMulLoop_zero_right 7 (gfDouble x) (0 ^^^ x)
  exact h.trans BitVec.zero_xor

theorem one_gfMul : ∀ x, gfMul 1 x = x := by
  decide +kernel

theorem xor_gfMul (x x' y : Byte) : gfMul (x ^^^ x') y = gfMul x y ^^^ gfMul x' y :=
  gfMulLoop_xor_left 8 x x' y 0 0

theorem gfMul_xor (x y y' : Byte) : gfMul x (y ^^^ y') = gfMul x y ^^^ gfMul x y' :=
  gfMulLoop_xor_right 8 x y y' 0 0

theorem gfDouble_gfMul (x y : Byte) : gfMul (gfDouble x) y = gfDouble (gfMul x y) :=
  gfMulLoop_gfDouble 8 x y 0

/-- Every byte is a sum of doublings of 1: the polynomial of R80, by way of `gfMul 1 x = x`. -/
theorem byte_induction {P : Byte → Prop} (one : P 1) (double : ∀ x, P x → P (gfDouble x))
    (add : ∀ x y, P x → P y → P (x ^^^ y)) (x : Byte) : P x :=
  one_gfMul x ▸ gfMulLoop_induction double add 8 1 x 0 one (add 1 1 one one)

theorem gfMul_gfDouble (x y : Byte) : gfMul x (gfDouble y) = gfDouble (gfMul x y) := by
  induction x using byte_induction with
  | one => rw [one_gfMul, one_gfMul]
  | double x ih => rw [gfDouble_gfMul, gfDouble_gfMul, ih]
  | add x x' ih ih' => rw [xor_gfMul, xor_gfMul, gfDouble_xor, ih, ih']

theorem gfMul_comm (x y : Byte) : gfMul x y = gfMul y x := by
  induction x using byte_induction with
  | one => rw [one_gfMul, gfMul_one]
  | double x ih => rw [gfDouble_gfMul, gfMul_gfDouble, ih]
  | add x x' ih ih' => rw [xor_gfMul, gfMul_xor, ih, ih']

theorem gfMul_assoc (x y w : Byte) : gfMul (gfMul x y) w = gfMul x (gfMul y w) := by
  induction x using byte_induction with
  | one => rw [one_gfMul, one_gfMul]
  | double x ih => rw [gfDouble_gfMul, gfDouble_gfMul, gfDouble_gfMul, ih]
  | add x x' ih ih' => rw [xor_gfMul, xor_gfMul, xor_gfMul, ih, ih']

/-! ## The inverse: the powers of x are all the bytes but 0 -/

/-- The polynomial x has order 255 in the field: 85, 51 and 15 are the largest proper divisors of 255. -/
theorem minimalPeriod_gfDouble_one : Function.minimalPeriod gfDouble 1 = 255 := by
  have hperiods : gfDouble^[255] 1 = 1 ∧ gfDouble^[85] 1 ≠ 1 ∧ gfDouble^[51] 1 ≠ 1 ∧ gfDouble^[15] 1 ≠ 1 := by
    decide +kernel
  have hdivisors : ∀ m ∈ Nat.divisors 255, ¬ m ∣ 85 → ¬ m ∣ 51 → ¬ m ∣ 15 → m = 255 := by decide +kernel
  obtain ⟨h255, h85, h51, h15⟩ := hperiods
  have hdvd : ∀ n, gfDouble^[n] 1 = 1 ↔ Function.minimalPeriod gfDouble 1 ∣ n := fun _ =>
    Function.isPeriodicPt_iff_minimalPeriod_dvd
  rw [ne_eq, hdvd] at h85 h51 h15
  rw [hdvd] at h255
  exact hdivisors _ (Nat.mem_divisors.mpr ⟨h255, by decide⟩) h85 h51 h15

theorem gfDouble_iterate_255 : gfDouble^[255] 1 = 1 :=
  minimalPeriod_gfDouble_one ▸ Function.iterate_minimalPeriod

theorem gfDouble_iterate_ne_zero {k : Nat} (h : k < 255) : gfDouble^[k] 1 ≠ 0 := by
  intro h0
  have hfix : gfDouble^[255 - k] 0 = 0 := Function.iterate_fixed rfl _
  have hone := gfDouble_iterate_255
  rw [← Nat.sub_add_cancel h.le, Function.iterate_add_apply, h0, hfix] at hone
  exact absurd hone (by decide)

/-- The 255 powers of x are distinct and not 0, so they are all the 255 bytes other than 0. -/
theorem exists_iterate_eq {x : Byte} (hx : x ≠ 0) : ∃ k < 255, gfDouble^[k] 1 = x := by
  have hinj : Set.InjOn (gfDouble^[·] 1) (Finset.range 255 : Set Nat) := by
    have h := Function.iterate_injOn_Iio_minimalPeriod (f := gfDouble) (x := 1)
    rwa [minimalPeriod_gfDouble_one, ← Finset.coe_range] at h
  have hsub : (Finset.range 255).image (gfDouble^[·] 1) ⊆ Finset.univ.erase 0 := by
    intro y hy
    obtain ⟨k, hk, rfl⟩ := Finset.mem_image.mp hy
    exact Finset.mem_erase.mpr ⟨gfDouble_iterate_ne_zero (Finset.mem_range.mp hk), Finset.mem_univ _⟩
  have hcard : (Finset.univ.erase (0 : Byte)).card ≤ ((Finset.range 255).image (gfDouble^[·] 1)).card := by
    rw [Finset.card_image_of_injOn hinj, Finset.card_range, Finset.card_erase_of_mem (Finset.mem_univ _),
      Finset.card_univ, ← FinEnum.card_eq_fintypeCard, FinEnum.card_bitVec]
    decide
  have hmem : x ∈ (Finset.range 255).image (gfDouble^[·] 1) :=
    Finset.eq_of_subset_of_card_le hsub hcard ▸ Finset.mem_erase.mpr ⟨hx, Finset.mem_univ x⟩
  simpa using hmem

theorem gfMul_iterate_gfDouble (k : Nat) (x y : Byte) : gfMul (gfDouble^[k] x) y = gfDouble^[k] (gfMul x y) := by
  have h : Function.Commute (gfMul · y) gfDouble := fun x => gfDouble_gfMul x y
  exact h.iterate_right k x

/-- The inverse of x^k is x^(255 - k). -/
theorem exists_gfMul_eq_one {x : Byte} (hx : x ≠ 0) : ∃ y, gfMul x y = 1 := by
  obtain ⟨k, hk, rfl⟩ := exists_iterate_eq hx
  refine ⟨gfDouble^[255 - k] 1, ?_⟩
  rw [gfMul_iterate_gfDouble, one_gfMul, ← Function.iterate_add_apply, Nat.add_sub_cancel' hk.le, gfDouble_iterate_255]

/-- An inverse is the only one: `w = (w x) y = y`. -/
theorem gfMul_inverse_unique {x y w : Byte} (hy : gfMul x y = 1) (hw : gfMul x w = 1) : w = y :=
  calc w = gfMul w (gfMul x y) := by rw [hy, gfMul_one]
    _ = gfMul (gfMul x w) y := by rw [← gfMul_assoc, gfMul_comm w x]
    _ = y := by rw [hw, one_gfMul]

end Sys2Proof.Machine
end

section
/-! PROOFS. The laws of the multiplier (R82). -/

namespace Sys2Proof.Machine

/-- Settles O26: the laws from the loop's linearity, the inverse from the powers of x. -/
theorem gfMulLaws : Obligations.GfMulLaws := by
  have hinv : ∀ x, x ≠ 0 → ∃ y, gfMul x y = 1 ∧ ∀ w, gfMul x w = 1 → w = y := by
    intro x hx
    obtain ⟨y, hy⟩ := exists_gfMul_eq_one hx
    exact ⟨y, hy, fun _ hw => gfMul_inverse_unique hy hw⟩
  have hzero : ∀ x, gfMul x 0 = 0 ∧ gfMul 0 x = 0 ∧ gfMul x 1 = x := fun x =>
    ⟨gfMul_zero x, (gfMul_comm 0 x).trans (gfMul_zero x), gfMul_one x⟩
  exact ⟨hzero, gfMul_comm, gfMul_xor, gfMul_assoc, hinv, by decide⟩

end Sys2Proof.Machine
end

section
/-! SUPPORT. The step R and its inverse by bytes (R87, R88), the sum `lin` as a linear function of the block (R86), and
what sixteen steps keep of one (R89). -/

namespace Sys2Proof.Machine

/-! ## Bytes of the shifted blocks -/

theorem byteAt_append_low {m n : Nat} (x : BitVec m) (y : BitVec n) (j : Nat) (h : 8 * j + 8 ≤ n) :
    byteAt (x ++ y) j = byteAt y j := by
  ext i hi
  simp [byteAt, BitVec.getLsbD_append, show 8 * j + i < n by omega]

theorem byteAt_append_high {m n : Nat} (x : BitVec m) (y : BitVec n) (j k : Nat) (h : 8 * j = n + 8 * k) :
    byteAt (x ++ y) j = byteAt x k := by
  ext i hi
  simp [byteAt, BitVec.getLsbD_append, show ¬ 8 * j + i < n by omega, show 8 * j + i - n = 8 * k + i by omega]

theorem byteAt_extractLsb' {n : Nat} (a : BitVec n) (k m j : Nat) (h : 8 * j + 8 ≤ m) :
    byteAt (a.extractLsb' (8 * k) m) j = byteAt a (k + j) := by
  ext i hi
  simp [byteAt, show 8 * j + i < m by omega, Nat.mul_add, Nat.add_assoc]

theorem byteAt_byte (b : Byte) : byteAt b 0 = b :=
  BitVec.extractLsb'_eq_self

theorem byteAt_stepR (a : Block) (j : Nat) (h : j < 15) : byteAt (stepR a) j = byteAt a (j + 1) := by
  rw [stepR, byteAt_append_low _ _ j (by omega), byteAt_extractLsb' a 1 120 j (by omega), Nat.add_comm]

theorem byteAt_stepR_last (a : Block) : byteAt (stepR a) 15 = lin a := by
  rw [stepR, byteAt_append_high _ _ 15 0 rfl, byteAt_byte]

/-- The block rotated one place toward index 15, the `c` of R88. -/
def rotateUp (a : Block) : Block :=
  a.extractLsb' 0 120 ++ a.extractLsb' 120 8

theorem byteAt_rotateUp_zero (a : Block) : byteAt (rotateUp a) 0 = byteAt a 15 := by
  rw [rotateUp, byteAt_append_low _ _ 0 (by omega), byteAt_extractLsb' a 15 8 0 (by omega)]

theorem byteAt_rotateUp_succ (a : Block) (j : Nat) (h : j < 15) : byteAt (rotateUp a) (j + 1) = byteAt a j := by
  rw [rotateUp, byteAt_append_high _ _ (j + 1) j (by omega), byteAt_extractLsb' a 0 120 j (by omega), Nat.zero_add]

theorem rotateUp_eq_blockOf (a : Block) :
    rotateUp a = blockOf fun j => if j = 0 then byteAt a 15 else byteAt a (j - 1) := by
  refine block_ext _ _ fun j hj => ?_
  rw [byteAt_blockOf _ j hj]
  cases j with
  | zero => exact byteAt_rotateUp_zero a
  | succ j => exact byteAt_rotateUp_succ a j (by omega)

theorem byteAt_stepRInv_zero (a : Block) : byteAt (stepRInv a) 0 = lin (rotateUp a) := by
  rw [stepRInv, byteAt_append_low _ _ 0 (by omega), byteAt_byte]
  rfl

theorem byteAt_stepRInv_succ (a : Block) (j : Nat) (h : j < 15) : byteAt (stepRInv a) (j + 1) = byteAt a j := by
  rw [stepRInv, byteAt_append_high _ _ (j + 1) j (by omega), byteAt_extractLsb' a 0 120 j (by omega), Nat.zero_add]

/-! ## The sum `lin` (R86) -/

theorem lin_xor (a b : Block) : lin (a ^^^ b) = lin a ^^^ lin b := by
  unfold lin
  rw [← List.foldl_hom₂ _ (· ^^^ ·) _ _ (fun z j => z ^^^ gfMul (byteAt (a ^^^ b) j) (linCoeffs.getD j 0)) 0 0
    fun y z j => ?_]
  · rfl
  · rw [byteAt_xor, xor_gfMul]
    ac_rfl

/-- `LC[0] = 1`: of a block that is 0 from byte 1 on, `lin` is byte 0. -/
theorem lin_of_tail_zero {a : Block} (h : ∀ j < 15, byteAt a (j + 1) = 0) : lin a = byteAt a 0 := by
  have hterm : ∀ z : Byte, ∀ j ∈ List.range 16,
      z ^^^ gfMul (byteAt a j) (linCoeffs.getD j 0) = z ^^^ if j = 0 then byteAt a 0 else 0 := by
    intro z j hj
    cases j with
    | zero => exact congrArg (z ^^^ ·) (gfMul_one _)
    | succ j =>
      have hlt : j < 15 := Nat.lt_of_succ_lt_succ (List.mem_range.mp hj)
      rw [h j hlt, gfMul_comm, gfMul_zero, if_neg (Nat.succ_ne_zero j)]
  rw [lin, List.foldl_ext _ _ _ hterm]
  simp [List.range_succ]

/-- Two blocks alike from byte 1 on: their `lin` differ as their bytes 0 do. -/
theorem lin_xor_lin_of_same_tail {a b : Block} (h : ∀ j < 15, byteAt a (j + 1) = byteAt b (j + 1)) :
    lin a ^^^ lin b = byteAt a 0 ^^^ byteAt b 0 := by
  rw [← lin_xor, ← byteAt_xor]
  refine lin_of_tail_zero fun j hj => ?_
  rw [byteAt_xor, h j hj]
  exact BitVec.xor_self

/-! ## The inverse of the step (R88) -/

/-- The rotation of R(a) differs from a in byte 0 alone, where it holds `lin a`. -/
theorem lin_rotateUp_stepR (a : Block) : lin (rotateUp (stepR a)) = byteAt a 0 := by
  have h := lin_xor_lin_of_same_tail (a := rotateUp (stepR a)) (b := a) fun j hj => by
    rw [byteAt_rotateUp_succ _ j hj, byteAt_stepR a j hj]
  rw [byteAt_rotateUp_zero, byteAt_stepR_last, BitVec.xor_comm] at h
  exact (BitVec.xor_right_inj _).mp h

/-- R_INV(a) differs from the rotation of a in byte 0 alone, where it holds `lin` of that rotation. -/
theorem lin_stepRInv (a : Block) : lin (stepRInv a) = byteAt a 15 := by
  have h := lin_xor_lin_of_same_tail (a := stepRInv a) (b := rotateUp a) fun j hj => by
    rw [byteAt_stepRInv_succ a j hj, byteAt_rotateUp_succ a j hj]
  rw [byteAt_stepRInv_zero, byteAt_rotateUp_zero, BitVec.xor_comm] at h
  exact (BitVec.xor_right_inj _).mp h

theorem stepRInv_stepR (a : Block) : stepRInv (stepR a) = a := by
  refine block_ext _ _ fun j hj => ?_
  cases j with
  | zero => rw [byteAt_stepRInv_zero, lin_rotateUp_stepR]
  | succ j => rw [byteAt_stepRInv_succ _ j (by omega), byteAt_stepR a j (by omega)]

theorem stepR_stepRInv (a : Block) : stepR (stepRInv a) = a := by
  refine block_ext _ _ fun j hj => ?_
  obtain hlt | rfl : j < 15 ∨ j = 15 := by omega
  · rw [byteAt_stepR _ j hlt, byteAt_stepRInv_succ a j hlt]
  · rw [byteAt_stepR_last, lin_stepRInv]

/-! ## The multiplication of every byte by one factor -/

/-- The block with every byte multiplied by c. -/
def scale (c : Byte) (a : Block) : Block :=
  blockOf fun j => gfMul c (byteAt a j)

theorem byteAt_scale (c : Byte) (a : Block) (j : Nat) (h : j < 16) : byteAt (scale c a) j = gfMul c (byteAt a j) :=
  byteAt_blockOf _ j h

theorem lin_scale (c : Byte) (a : Block) : lin (scale c a) = gfMul c (lin a) := by
  have hterm : ∀ z : Byte, ∀ j ∈ List.range 16, z ^^^ gfMul (byteAt (scale c a) j) (linCoeffs.getD j 0) =
      z ^^^ gfMul c (gfMul (byteAt a j) (linCoeffs.getD j 0)) := by
    intro z j hj
    rw [byteAt_scale c a j (List.mem_range.mp hj), gfMul_assoc]
  rw [lin, List.foldl_ext _ _ _ hterm]
  calc _ = (List.range 16).foldl (fun z j => z ^^^ gfMul c (gfMul (byteAt a j) (linCoeffs.getD j 0))) (gfMul c 0) := by
          rw [gfMul_zero]
    _ = gfMul c (lin a) := List.foldl_hom (gfMul c) fun z j => (gfMul_xor c z _).symm

/-! ## The step and the sixteen steps are linear (R89) -/

theorem stepR_xor (a b : Block) : stepR (a ^^^ b) = stepR a ^^^ stepR b := by
  refine block_ext _ _ fun j hj => ?_
  obtain hlt | rfl : j < 15 ∨ j = 15 := by omega
  · simp only [byteAt_xor, byteAt_stepR _ j hlt]
  · simp only [byteAt_xor, byteAt_stepR_last, lin_xor]

theorem stepR_scale (c : Byte) (a : Block) : stepR (scale c a) = scale c (stepR a) := by
  refine block_ext _ _ fun j hj => ?_
  rw [byteAt_scale c _ j hj]
  obtain hlt | rfl : j < 15 ∨ j = 15 := by omega
  · rw [byteAt_stepR _ j hlt, byteAt_stepR _ j hlt, byteAt_scale c a _ (by omega)]
  · rw [byteAt_stepR_last, byteAt_stepR_last, lin_scale]

theorem applyTimes_eq_iterate (f : Block → Block) (n : Nat) : applyTimes f n = f^[n] := by
  induction n with
  | zero => rfl
  | succ n ih =>
    funext a
    exact congrFun ih (f a)

theorem linear_eq_iterate : linear = stepR^[16] :=
  applyTimes_eq_iterate stepR 16

theorem linearInv_eq_iterate : linearInv = stepRInv^[16] :=
  applyTimes_eq_iterate stepRInv 16

theorem linear_xor (a b : Block) : linear (a ^^^ b) = linear a ^^^ linear b := by
  rw [linear_eq_iterate]
  exact Function.Semiconj₂.iterate stepR_xor 16 a b

theorem linear_scale (c : Byte) (a : Block) : linear (scale c a) = scale c (linear a) := by
  have hcomm : Function.Commute stepR (scale c) := stepR_scale c
  rw [linear_eq_iterate]
  exact hcomm.iterate_left 16 a

theorem linearInv_linear (a : Block) : linearInv (linear a) = a := by
  have hinv : Function.LeftInverse stepRInv stepR := stepRInv_stepR
  rw [linear_eq_iterate, linearInv_eq_iterate]
  exact hinv.iterate 16 a

end Sys2Proof.Machine
end

section
/-! PROOFS. The step R and its inverse (R87, R88), and the transform L (R89). -/

namespace Sys2Proof.Machine

/-- Settles O28: the bytes of both steps, and `LC[0] = 1` for the inversion. -/
theorem shiftStepAndItsInverse : Obligations.ShiftStepAndItsInverse := by
  refine ⟨fun a => ⟨byteAt_stepR a, byteAt_stepR_last a, byteAt_stepRInv_succ a, ?rotated, stepRInv_stepR a,
    stepR_stepRInv a⟩, by decide +kernel⟩
  case rotated => rw [byteAt_stepRInv_zero, rotateUp_eq_blockOf]

/-- Settles O29: one step R is linear and undone by R_INV, and so are sixteen. -/
theorem linearTransformLaws : Obligations.LinearTransformLaws :=
  ⟨fun a => ⟨congrFun linear_eq_iterate a, congrFun linearInv_eq_iterate a⟩, linear_xor, linear_scale, linearInv_linear,
    by decide +kernel⟩

end Sys2Proof.Machine
end

section
/-! PROOFS. The doubling of the tweak (R194). -/

namespace Sys2Proof.Machine

/-- One place left is twice the integer, the carry out of the top bit lost. -/
theorem shiftLeft_one_eq_ofNat (t : BitVec n) : t <<< 1 = BitVec.ofNat n (2 * t.toNat % 2 ^ n) := by
  apply BitVec.eq_of_toNat_eq
  rw [BitVec.toNat_shiftLeft, BitVec.toNat_ofNat, Nat.mod_mod, Nat.shiftLeft_eq, Nat.pow_one, Nat.mul_comm]

theorem getLsbD_top_iff (t : Block) : t.getLsbD 127 = true ↔ 2 ^ 127 ≤ t.toNat := by
  have hmsb : t.msb = t.getLsbD 127 := BitVec.msb_eq_getLsbD_last t
  rw [← hmsb, BitVec.msb_eq_decide, decide_eq_true_iff]

theorem doubleTweak_eq (t : Block) : doubleTweak t = t <<< 1 ^^^ if t.getLsbD 127 then 0x87#128 else 0#128 := by
  rw [doubleTweak]
  split <;> simp

/-- Settles O54: the shift is the doubling of the integer, and the bit it drops is the one that tells 2^127 ≤ T. -/
theorem tweakDoubling : Obligations.TweakDoubling := by
  refine ⟨fun t => ?law, by decide +kernel⟩
  case law => simp only [doubleTweak_eq, shiftLeft_one_eq_ofNat, getLsbD_top_iff]

end Sys2Proof.Machine
end

section
/-! PROOFS. The core while HALTED, and its one way out (R222). -/

namespace Sys2Proof.Machine

theorem presented_of_halted {s : State} (hh : s.halted = true) (d : Descriptor) : presented s d = .error .isHalted :=
  if_pos hh

/-- A descriptor presented while HALTED is not decoded: its opcode byte is recorded with the refusal. -/
theorem perform_command_of_halted {s : State} (hh : s.halted = true) (d : Descriptor) :
    perform (.command d) s = .next (s.endedWith (issuedOp d) 8 1 0) := by
  rw [perform, presented_of_halted hh]
  dsimp only
  rw [raise_eq, decide_eq_false nofun, Bool.or_false]
  rfl

/-- HALTED is kept by every action of the host but a reset. -/
theorem perform_halted_sticky {a : HostAction} {s t : State} (h : perform a s = .next t) (hh : s.halted = true) :
    t.halted = true ∨ ∃ cfg, a = .reset cfg := by
  cases a with
  | command d =>
    rw [perform_command_of_halted hh] at h
    cases h
    exact .inl hh
  | write a bs =>
    obtain ⟨-, rfl⟩ := hostWrite_eq_next h
    exact .inl hh
  | read a n =>
    obtain ⟨bs, rfl⟩ := hostRead_eq_next h
    exact .inl hh
  | status off =>
    cases h
    exact .inl hh
  | reset cfg => exact .inr ⟨cfg, rfl⟩

/-- Where every slot is blank, so is what any index reads: one with no slot reads as blank too. -/
theorem slotAt_of_slots_eq_replicate {s : State} {n : Nat} (hs : s.slots = List.replicate n Slot.blank) (k : SlotIx) :
    s.slotAt k = Slot.blank := by
  rw [State.slotAt, hs, List.getD_eq_getElem?_getD, List.getElem?_getD_replicate_default_eq]

/-- R241: a reset that takes place empties every slot. -/
theorem slotAt_alg_of_reset {cfg : Config} {s t : State} (h : perform (.reset cfg) s = .next t) (k : SlotIx) :
    (t.slotAt k).alg = .empty := by
  obtain ⟨-, rfl⟩ := platformReset_eq_next h
  rw [slotAt_of_slots_eq_replicate rfl k]
  rfl

/-- Settles O8: the port refuses before it decodes, and of the host's actions a reset alone clears HALTED. -/
theorem haltedCoreRefusesEveryDescriptor : Obligations.HaltedCoreRefusesEveryDescriptor := by
  refine ⟨fun s rest d hp hh => ?refused, fun _ _ => rfl, fun s t a h hh hclear => ?cleared⟩
  case refused =>
    rw [step_command hp]
    exact perform_command_of_halted (s := { s with port := rest }) hh d
  case cleared =>
    rcases perform_halted_sticky h hh with hkept | ⟨cfg, rfl⟩
    · exact absurd (hkept.symm.trans hclear) nofun
    · exact ⟨cfg, rfl, slotAt_alg_of_reset h⟩

end Sys2Proof.Machine
end

section
/-! PROOFS. The encoder and the decoder undo each other (R65 to R67, R69), the decoder's refusals in their order (R70 to
R73), and the descriptors written out. -/

namespace Sys2Proof

/-! ## The opcode row of a command -/

/-- Every command is made back by the row of its own opcode from its own operand fields. -/
theorem encodeRow (i : Instr) : Laws.EncodeRow.Statement i := by
  cases i with
  | gfmul => exact Laws.EncodeRow.gfmul _ _ _
  | tbuild => exact Laws.EncodeRow.tbuild
  | kcreate => exact Laws.EncodeRow.kcreate _ _
  | kload => exact Laws.EncodeRow.kload _ _
  | ksetmask => exact Laws.EncodeRow.ksetmask _
  | kunmask => exact Laws.EncodeRow.kunmask _
  | kseticode => exact Laws.EncodeRow.kseticode _
  | kchkicode => exact Laws.EncodeRow.kchkicode _
  | kdestroy => exact Laws.EncodeRow.kdestroy _
  | kzSched => exact Laws.EncodeRow.kzSched _
  | kzEnc => exact Laws.EncodeRow.kzEnc _ _ _
  | kzDec => exact Laws.EncodeRow.kzDec _ _ _
  | kzRemask => exact Laws.EncodeRow.kzRemask _
  | kzDelkeys => exact Laws.EncodeRow.kzDelkeys _
  | mgSched => exact Laws.EncodeRow.mgSched _
  | mgEnc => exact Laws.EncodeRow.mgEnc _ _ _
  | mgDec => exact Laws.EncodeRow.mgDec _ _ _
  | mgRemask => exact Laws.EncodeRow.mgRemask _
  | mgDelkeys => exact Laws.EncodeRow.mgDelkeys _
  | xtsEnc => exact Laws.EncodeRow.xtsEnc _ _ _ _ _ _ _
  | xtsDec => exact Laws.EncodeRow.xtsDec _ _ _ _ _ _ _

/-- Settles O1: the fields of the encoder's descriptor are the operand fields, and the row of the opcode makes the
command back from them. -/
theorem decodeOfEncode : Obligations.DecodeOfEncode := by
  intro i
  obtain ⟨r, hrow, hbuild, hzero, hop⟩ := encodeRow i
  rw [decode_eq_ok_iff, encode, fieldsOf_packFields]
  refine ⟨r, ?_, hzero, hbuild⟩
  rwa [show Machine.issuedOp (packFields (operandFields i)) = opcodeOf i from
    (congrArg Fields.op (fieldsOf_packFields _)).trans hop]

/-- Where a row's unused fields are zero, the operand fields of the command it builds are the fields it was built
from. -/
theorem operandFields_build {op : Byte} {r : OpcodeRow} (hr : opcodeRow op = some r) {f : Fields} (hop : f.op = op)
    (hz : unusedZero r.format f = true) : operandFields (r.build f) = f := by
  obtain ⟨fop, ks, kt, a, b, src, dst, len, iv⟩ := f
  unfold opcodeRow at hr
  split at hr <;> cases hr
  all_goals
    rename_i hnat
    obtain rfl := eq_ofNat_of_toNat_eq hnat
    simp only [unusedZero, Bool.and_eq_true, beq_iff_eq] at hz hop
    simp [operandFields, bareFields, opcodeOf, hop, hz]

/-- Settles O2: the fields of a descriptor that decodes are the operand fields of its command. -/
theorem encodeOfDecode : Obligations.EncodeOfDecode := by
  intro d i hd
  obtain ⟨r, hr, hz, rfl⟩ := (decode_eq_ok_iff d i).1 hd
  rw [encode, operandFields_build hr rfl hz, packFields_fieldsOf]

/-! ## The refusals of the decoder -/

/-- A row of the table whose `mask` leaves its `match` decodes to a command. -/
theorem exists_decode_of_mask_eq {d mask : Descriptor} (hm : (Machine.issuedOp d, mask) ∈ Machine.opcodeMasks)
    (he : d &&& mask = rowPattern (Machine.issuedOp d)) : ∃ i, decode d = .ok i := by
  obtain ⟨i, hd, -⟩ := (and_mask_eq_rowPattern_iff hm).1 he
  exact ⟨i, hd⟩

/-- The three outcomes of the decoder before `N_SLOTS` is looked at, told apart by the table of masks. -/
theorem decode_trichotomy (d : Descriptor) :
    ((∀ mask, (Machine.issuedOp d, mask) ∉ Machine.opcodeMasks) ∧ decode d = .error .opcode) ∨
      ((∃ mask, (Machine.issuedOp d, mask) ∈ Machine.opcodeMasks ∧ d &&& mask ≠ rowPattern (Machine.issuedOp d)) ∧
        decode d = .error .mustBeZero) ∨
      ((∃ mask, (Machine.issuedOp d, mask) ∈ Machine.opcodeMasks) ∧
        (∀ mask, (Machine.issuedOp d, mask) ∈ Machine.opcodeMasks → d &&& mask = rowPattern (Machine.issuedOp d)) ∧
        ∃ i, decode d = .ok i) := by
  by_cases hno : ∀ mask, (Machine.issuedOp d, mask) ∉ Machine.opcodeMasks
  · exact .inl ⟨hno, decode_of_not_mem hno⟩
  by_cases hne : ∃ mask, (Machine.issuedOp d, mask) ∈ Machine.opcodeMasks ∧
      d &&& mask ≠ rowPattern (Machine.issuedOp d)
  · obtain ⟨mask, hm, h⟩ := hne
    exact .inr (.inl ⟨⟨mask, hm, h⟩, decode_of_mask_ne hm h⟩)
  · push Not at hno hne
    obtain ⟨mask, hm⟩ := hno
    exact .inr (.inr ⟨⟨mask, hm⟩, hne, exists_decode_of_mask_eq hm (hne mask hm)⟩)

/-- The last of the decoder's checks refuses exactly the commands that are not well formed (R72). -/
theorem decodeIssued_eq_slotRange_iff (n : Nat) (d : Descriptor) :
    (∃ k, decodeIssued n d = .error (.slotRange k)) ↔ ∃ i, decode d = .ok i ∧ i.wellFormed n = false := by
  cases hd : decode d with
  | error e =>
    have hne : ∀ k, e ≠ .slotRange k := by
      rcases decode_trichotomy d with ⟨-, h⟩ | ⟨-, h⟩ | ⟨-, -, i, h⟩ <;> rw [hd] at h <;> cases h <;> exact nofun
    simp [decodeIssued_of_decode_error hd, hne]
  | ok i =>
    simp only [decodeIssued_of_decode hd, Except.ok.injEq, exists_eq_left', ← Bool.not_eq_true,
      ← find?_slotFields_eq_none_iff]
    cases (slotFields i).find? fun k => !slotBelow n k <;> simp

/-- A command is refused for its slots or not at all. -/
theorem decodeIssued_of_decode_ne {n : Nat} {d : Descriptor} {i : Instr} (hd : decode d = .ok i) :
    decodeIssued n d ≠ .error .opcode ∧ decodeIssued n d ≠ .error .mustBeZero := by
  rw [decodeIssued_of_decode hd]
  cases (slotFields i).find? fun k => !slotBelow n k <;> simp

/-- Settles O4: the decoder's three outcomes exclude each other, and only a command meets the check of its slots. -/
theorem decoderRefusesInOrder : Obligations.DecoderRefusesInOrder := by
  intro n d
  rw [ofNat_opcode_eq_rowPattern]
  refine ⟨?opcode, ?mustBeZero, decodeIssued_eq_slotRange_iff n d⟩
  all_goals
    rcases decode_trichotomy d with ⟨hno, h⟩ | ⟨⟨mask, hm, hne⟩, h⟩ | ⟨⟨mask, hm⟩, hall, i, h⟩
  case opcode.inl => exact iff_of_true (decodeIssued_of_decode_error h) hno
  case opcode.inr.inl =>
    exact iff_of_false (by rw [decodeIssued_of_decode_error h]; exact nofun) fun hno => hno mask hm
  case opcode.inr.inr => exact iff_of_false (decodeIssued_of_decode_ne h).1 fun hno => hno mask hm
  case mustBeZero.inl =>
    exact iff_of_false (by rw [decodeIssued_of_decode_error h]; exact nofun) fun ⟨mask, hm, _⟩ => hno mask hm
  case mustBeZero.inr.inl => exact iff_of_true (decodeIssued_of_decode_error h) ⟨mask, hm, hne⟩
  case mustBeZero.inr.inr =>
    exact iff_of_false (decodeIssued_of_decode_ne h).2 fun ⟨mask', hm', hne⟩ => hne (hall mask' hm')

/-- Settles O5: the five descriptors, decoded. -/
theorem writtenOutDescriptorsDecode : Obligations.WrittenOutDescriptorsDecode :=
  ⟨rfl, rfl, rfl, rfl, rfl⟩

end Sys2Proof
end

section
/-! PROOFS. The step of a decoded command, the idle step, the state after a reset, and the layout of the status space
(R36 to R41). -/

namespace Sys2Proof.Machine

/-- R222: a command's own first check refuses it while HALTED. -/
theorem exec_of_halted (i : Instr) {s : State} (hh : s.halted = true) : exec i s = raise (opcodeOf i) .isHalted s := by
  obtain ⟨body, hbody⟩ := exec_eq_runCommand i s
  rw [hbody, runCommand, haltedCheck, hh]
  rfl

/-- For a core that is not HALTED the port hands a decoded command on; while HALTED the command's own first check refuses
it in the same words. -/
theorem perform_command_of_decodeIssued {s : State} {d : Descriptor} {i : Instr}
    (hd : decodeIssued s.cfg.nSlots d = .ok i) : perform (.command d) s = exec i s := by
  cases hh : s.halted with
  | false => simp [perform, presented, hh, hd]
  | true =>
    have hdec : decode d = .ok i := ((decodeIssued_eq_ok_iff _ _ _).1 hd).1
    rw [perform, presented_of_halted hh, exec_of_halted i hh, opcodeOf_of_decode hdec]

/-- Settles O6: the step takes the descriptor off the port and performs it. -/
theorem stepRunsTheDecodedCommand : Obligations.StepRunsTheDecodedCommand := by
  intro s rest d i hp hd
  rw [step_command hp]
  exact perform_command_of_decodeIssued (s := { s with port := rest }) hd

/-- Settles O9: nothing is taken off an empty port. -/
theorem idleCoreWaits : Obligations.IdleCoreWaits := by
  intro s hp
  rw [step, State.takeAction, hp]

/-- Settles O12: the example configuration is legal. -/
theorem resetMeetsTheInvariant : Obligations.ResetMeetsTheInvariant :=
  inv_resetWith (by decide)

/-! ## The status registers as numbers -/

/-- A number in two parts. -/
theorem toNat_append_eq_add {m n : Nat} (x : BitVec m) (y : BitVec n) :
    (x ++ y).toNat = x.toNat * 2 ^ n + y.toNat := by
  rw [BitVec.toNat_append, ← Nat.shiftLeft_add_eq_or_of_lt y.isLt, Nat.shiftLeft_eq]

/-- R36: the code, HALTED, `TABLES_VALID` and `COMPAT` from bit 0 up. -/
theorem statusWord_eq (s : State) :
    s.statusWord = BitVec.ofNat 32 (s.code.toNat + 0x100 * s.halted.toNat + 0x200 * s.tablesValid.toNat +
      0x400 * s.cfg.compat.toNat) := by
  apply BitVec.eq_of_toNat_eq
  have := s.code.isLt
  have := s.halted.toNat_lt
  have := s.tablesValid.toNat_lt
  have := s.cfg.compat.toNat_lt
  simp only [State.statusWord, toNat_append_eq_add, BitVec.toNat_ofNat, BitVec.toNat_ofBool]
  omega

/-- R37: the sub-cause, the opcode and the slot from bit 0 up. -/
theorem errinfoWord_eq (s : State) :
    s.errinfoWord = BitVec.ofNat 32 (s.errSub.toNat + 0x100 * s.errOp.toNat + 0x10000 * s.errSlot.toNat) := by
  apply BitVec.eq_of_toNat_eq
  have := s.errSub.isLt
  have := s.errOp.isLt
  have := s.errSlot.isLt
  simp only [State.errinfoWord, toNat_append_eq_add, BitVec.toNat_ofNat]
  omega

/-- R40: the algorithm and the three flags from bit 0 up. -/
theorem statWord_eq (sl : Slot) :
    sl.statWord = BitVec.ofNat 32 (sl.alg.number.toNat + 4 * sl.masked.toNat + 8 * sl.icodeSet.toNat +
      16 * sl.sched.toNat) := by
  apply BitVec.eq_of_toNat_eq
  have := sl.alg.number.isLt
  have := sl.masked.toNat_lt
  have := sl.icodeSet.toNat_lt
  have := sl.sched.toNat_lt
  simp only [Slot.statWord, toNat_append_eq_add, BitVec.toNat_ofNat, BitVec.toNat_ofBool]
  omega

/-! ## The registers at their offsets -/

theorem statusRegister_zero (sl : Slot) : sl.statusRegister 0 = sl.statWord := rfl

theorem statusRegister_four (sl : Slot) : sl.statusRegister 4 = BitVec.ofNat 32 (sl.res.toNat % 2 ^ 32) := by
  apply BitVec.eq_of_toNat_eq
  simp [Slot.statusRegister]

theorem statusRegister_eight (sl : Slot) : sl.statusRegister 8 = BitVec.ofNat 32 (sl.res.toNat / 2 ^ 32) := by
  apply BitVec.eq_of_toNat_eq
  simp [Slot.statusRegister, Nat.shiftRight_eq_div_pow]

theorem statusRegister_of_not_mem (sl : Slot) {r : Nat} (h : r ∉ [0, 4, 8]) : sl.statusRegister r = 0 := by
  simp only [List.mem_cons, List.not_mem_nil, or_false, not_or] at h
  obtain ⟨h0, h4, h8⟩ := h
  rw [Slot.statusRegister, if_neg h0, if_neg h4, if_neg h8]

/-- Below the slots' registers only the three words of R36 to R38 are not 0. -/
theorem statusAt_of_lt (s : State) {off : Nat} (hlt : off < 0x100) (h : off ∉ [0, 4, 8]) : s.statusAt off = 0 := by
  simp only [List.mem_cons, List.not_mem_nil, or_false, not_or] at h
  obtain ⟨h0, h4, h8⟩ := h
  rw [State.statusAt, if_neg h0, if_neg h4, if_neg h8, if_pos hlt]

/-- R40: register r of slot j. -/
theorem statusAt_slot (s : State) {j r : Nat} (hr : r < 0x10) :
    s.statusAt (0x100 + 0x10 * j + r) =
      if j < s.cfg.nSlots then (s.slots.getD j Slot.blank).statusRegister r else 0 := by
  have hdiv : (0x100 + 0x10 * j + r - 0x100) / 0x10 = j := by omega
  have hmod : (0x100 + 0x10 * j + r - 0x100) % 0x10 = r := by omega
  rw [State.statusAt, if_neg (by omega), if_neg (by omega), if_neg (by omega), if_neg (by omega)]
  dsimp only
  rw [hdiv, hmod]

/-- An offset of the slots' registers is one register of one slot. -/
theorem exists_slot_offset {off : Nat} (h : 0x100 ≤ off) : ∃ j r, r < 0x10 ∧ off = 0x100 + 0x10 * j + r :=
  ⟨(off - 0x100) / 0x10, (off - 0x100) % 0x10, Nat.mod_lt _ (by decide), by omega⟩

/-- Settles O16: each register as a number, and the offsets that name none. -/
theorem statusSpaceLayout : Obligations.StatusSpaceLayout := by
  intro s k off
  refine ⟨statusWord_eq s, errinfoWord_eq s, rfl, fun hk => ?slot, fun hoff hslots => ?none⟩
  case slot =>
    have hreg : ∀ r < 0x10, s.statusAt (0x100 + 0x10 * k.toNat + r) = (s.slotAt k).statusRegister r := fun r hr => by
      rw [statusAt_slot s hr, if_pos hk]
      rfl
    have h0 := hreg 0 (by decide)
    have h4 := hreg 4 (by decide)
    have h8 := hreg 8 (by decide)
    rw [statusRegister_zero, statWord_eq] at h0
    rw [statusRegister_four, Nat.add_right_comm] at h4
    rw [statusRegister_eight, Nat.add_right_comm] at h8
    exact ⟨h0, h4, h8⟩
  case none =>
    by_cases hlt : off < 0x100
    · exact statusAt_of_lt s hlt hoff
    obtain ⟨j, r, hr, rfl⟩ := exists_slot_offset (Nat.le_of_not_lt hlt)
    rw [statusAt_slot s hr]
    split
    · rename_i hj
      refine statusRegister_of_not_mem _ fun hmem => hslots j hj ?_
      simp only [List.mem_cons, List.not_mem_nil, or_false] at hmem ⊢
      omega
    · rfl

/-! ## The reset input -/

/-- The state a legal reset leaves. -/
def afterReset (cfg : Config) (s : State) : State :=
  { State.resetWith cfg with port := s.port, entropy := s.entropy, fills := s.fills, freeBytes := s.freeBytes }

theorem perform_reset (cfg : Config) (s : State) :
    perform (.reset cfg) s = if cfg.valid then .next (afterReset cfg s) else .refused .badConfiguration := rfl

theorem statusRegister_blank (r : Nat) : Slot.blank.statusRegister r = 0 := by
  unfold Slot.statusRegister
  split
  · decide
  · split
    · decide
    · split <;> decide

/-- After reset only the `compat` bit of `STATUS` can be set. -/
theorem statusAt_afterReset (cfg : Config) (s : State) (off : Nat) :
    (afterReset cfg s).statusAt off = if off = 0 ∧ cfg.compat = true then 0x400 else 0 := by
  by_cases h0 : off = 0
  · subst h0
    have hword : (afterReset cfg s).statusAt 0 = BitVec.ofNat 32 (0x400 * cfg.compat.toNat) := by
      rw [← Nat.zero_add (0x400 * _)]
      exact statusWord_eq (afterReset cfg s)
    rw [hword]
    cases cfg.compat <;> rfl
  rw [if_neg fun h => h0 h.1]
  by_cases hlt : off < 0x100
  · by_cases hmem : off ∈ [0, 4, 8]
    · simp only [List.mem_cons, List.not_mem_nil, or_false] at hmem
      rcases hmem with rfl | rfl | rfl
      · exact absurd rfl h0
      · exact (errinfoWord_eq (afterReset cfg s)).trans rfl
      · rfl
    · exact statusAt_of_lt _ hlt hmem
  · obtain ⟨j, r, hr, rfl⟩ := exists_slot_offset (Nat.le_of_not_lt hlt)
    rw [statusAt_slot _ hr]
    split
    · rw [show (afterReset cfg s).slots = List.replicate cfg.nSlots Slot.blank from rfl, List.getD_eq_getElem?_getD,
        List.getElem?_getD_replicate_default_eq]
      exact statusRegister_blank r
    · rfl

/-- Settles O11: every slot after a legal reset is a blank one. -/
theorem resetInput : Obligations.ResetInput := by
  intro s cfg
  rw [perform_reset]
  refine ⟨fun hv => by rw [hv]; rfl, fun hv => ⟨afterReset cfg s, if_pos hv, rfl, List.length_replicate,
    fun sl hsl => ?_, rfl, rfl, memByte_nil, statusAt_afterReset cfg s⟩⟩
  rw [List.eq_of_mem_replicate hsl]
  exact ⟨rfl, rfl, rfl, rfl, rfl, rfl, rfl⟩

end Sys2Proof.Machine
end

section
/-! SUPPORT. Everything a command can do, said once for all 21: a check refuses it, a request that fails ends it before its
first write, or its body has the effect that its draws determine. -/

namespace Sys2Proof.Machine

/-! ## Parts of a command that draw before they write -/

/-- A part r of a command begun in s makes n requests before its first write: all are answered and it goes on as `done`, or
the first that fails ends it (R17). -/
def Draws (who : SlotIx) (s : State) (n : Nat) (r done : Res Unit) : Prop :=
  (answersOk s n ∧ r = done) ∨
    ∃ j < n, answersOk s j ∧ answerAt s j = none ∧ r = .err (.entropy who) (afterAnswers s (j + 1))

theorem answersOk_zero (s : State) : answersOk s 0 := fun _ h => absurd h (Nat.not_lt_zero _)

theorem answersOk_add_one {s : State} {k : Nat} (h : answersOk s k) (hk : (answerAt s k).isSome = true) :
    answersOk s (k + 1) := fun j hj => by
  rcases Nat.lt_succ_iff_lt_or_eq.1 hj with hlt | rfl
  · exact h j hlt
  · exact hk

theorem Draws.done {who : SlotIx} {s : State} {n : Nat} {r : Res Unit} (h : answersOk s n) : Draws who s n r r :=
  .inl ⟨h, rfl⟩

/-- The k-th request of such a part. -/
theorem Draws.fill {who : SlotIx} {s : State} {k n m : Nat} {f : BitVec (8 * m) → State → Res Unit} {done : Res Unit}
    (hk : k < n) (hok : answersOk s k)
    (hnext : answersOk s (k + 1) → Draws who s n (f (drawn s k m) (Machine.afterAnswers s (k + 1))) done) :
    Draws who s n ((fill who m (Machine.afterAnswers s k)).bind f) done := by
  rcases fill_cases who m (Machine.afterAnswers s k) with ⟨hv, hf⟩ | ⟨hn, hf⟩ <;> rw [hf]
  · rw [answerAt_afterAnswers] at hv
    rw [Res.bind, drawn_afterAnswers, afterAnswers_add]
    exact hnext (answersOk_add_one hok hv)
  · rw [answerAt_afterAnswers] at hn
    exact .inr ⟨k, hk, hok, hn, by rw [Res.bind, afterAnswers_add]⟩

theorem draws_two {who : SlotIx} {s : State} {m : Nat} (f : BitVec (8 * m) → BitVec (8 * m) → State → Res Unit) :
    Draws who s 2 ((fill who m s).bind fun d1 s => (fill who m s).bind fun d2 s => f d1 d2 s)
      (f (drawn s 0 m) (drawn s 1 m) (afterAnswers s 2)) :=
  Draws.fill (k := 0) (by decide) (answersOk_zero s) fun h1 => Draws.fill (k := 1) (by decide) h1 Draws.done

theorem draws_four_from {who : SlotIx} {s : State} {k n m : Nat} (hn : n = k + 4) (hok : answersOk s k)
    (f : BitVec (8 * m) → BitVec (8 * m) → BitVec (8 * m) → BitVec (8 * m) → State → Res Unit) :
    Draws who s n
      ((fill who m (afterAnswers s k)).bind fun d1 s => (fill who m s).bind fun d2 s =>
        (fill who m s).bind fun d3 s => (fill who m s).bind fun d4 s => f d1 d2 d3 d4 s)
      (f (drawn s k m) (drawn s (k + 1) m) (drawn s (k + 2) m) (drawn s (k + 3) m) (afterAnswers s n)) := by
  subst hn
  exact Draws.fill (by omega) hok fun h1 => Draws.fill (by omega) h1 fun h2 => Draws.fill (by omega) h2 fun h3 =>
    Draws.fill (by omega) h3 Draws.done

theorem draws_remask (k : SlotIx) (s : State) :
    Draws k s (remaskDraws s k).length (remask k k s)
      (.ok () ((afterAnswers s (remaskDraws s k).length).setSlot k (remaskedSlot s k))) :=
  remask_cases k k s

/-! ## The effect of a command whose requests are answered -/

/-- The slot KDESTROY leaves, from the six answers from here on (R111). -/
def destroyedSlot (s : State) (k : SlotIx) : Slot :=
  if (s.slotAt k).alg = .magma then
    ((s.slotAt k).overwriteMg (drawn s 2 32) (drawn s 3 32) (drawn s 4 32) (drawn s 5 32)).destroyed (drawn s 0 32)
      (drawn s 1 32)
  else
    ((s.slotAt k).overwriteKz (drawn s 2 160) (drawn s 3 160) (drawn s 4 160) (drawn s 5 160)).destroyed (drawn s 0 32)
      (drawn s 1 32)

/-- The block MG.ENC and MG.DEC write for the block b, from the 32 answers from here on (R170). -/
def mgDrawnOutput (ord : List Nat) (s : State) (k : SlotIx) (b : HalfBlock) : HalfBlock :=
  mgCryptWith s.cfg.compat (s.slotAt k).magmaArrays ord ((List.range 32).map fun j => drawn s j 4) b

/-- What MG.ENC and MG.DEC do after their 32 draws (R172). -/
def mgBlockEffect (ord : List Nat) (ks : SlotIx) (src dst : Addr) (s : State) : Res Unit :=
  (readBytes src.toNat 8 (afterAnswers s 32)).bind fun b u =>
    .ok () ((u.store dst.toNat (toBytes 8 (mgDrawnOutput ord s ks (ofBytes 64 b)))).setSlot ks ((s.slotAt ks).spend 1))

/-- The algorithm of the key that KCREATE makes (R104). -/
def algCreated (alg : Byte) : Alg :=
  (algOfByte alg).getD .empty

/-- What the body of a command does when the requests of `drawsOf` are answered. An XTS command draws between its writes, so
its effect is its whole body. -/
def effectOf (i : Instr) (s : State) : Res Unit :=
  match i with
  | .gfmul x y dst => .ok () (s.store dst.toNat [gfMul x y])
  | .tbuild => .ok () { s with tablesValid := true }
  | .kcreate ks alg =>
    .ok () ((afterAnswers s 1).setSlot ks
      ((s.slotAt ks).created (algCreated alg) (drawn s 0 32) (initialResource s (algCreated alg))))
  | .kload ks src =>
    (readBytes src.toNat 32 s).bind fun b s => .ok () (s.setSlot ks ((s.slotAt ks).loaded (ofBytes 256 b)))
  | .ksetmask ks | .kzRemask ks | .mgRemask ks =>
    .ok () ((afterAnswers s (remaskDraws s ks).length).setSlot ks (remaskedSlot s ks))
  | .kunmask ks => .ok () (s.setSlot ks (s.slotAt ks).unmasked)
  | .kseticode ks => .ok () (s.setSlot ks (s.slotAt ks).certified)
  | .kchkicode _ => .ok () s
  | .kdestroy ks => .ok () ((afterAnswers s 6).setSlot ks (destroyedSlot s ks))
  | .kzSched ks => .ok () ((afterAnswers s 2).setSlot ks ((s.slotAt ks).kzScheduled (drawn s 0 160) (drawn s 1 160)))
  | .kzEnc ks src dst => kzBlockBody Slot.kzEncrypt ks src dst s
  | .kzDec ks src dst => kzBlockBody Slot.kzDecrypt ks src dst s
  | .kzDelkeys ks =>
    .ok () ((afterAnswers s 4).setSlot ks
      ((s.slotAt ks).overwriteKz (drawn s 0 160) (drawn s 1 160) (drawn s 2 160) (drawn s 3 160)).unscheduled)
  | .mgSched ks =>
    .ok () ((afterAnswers s 2).setSlot ks ((s.slotAt ks).mgScheduled s.cfg.compat (drawn s 0 32) (drawn s 1 32)))
  | .mgEnc ks src dst => mgBlockEffect encOrder ks src dst s
  | .mgDec ks src dst => mgBlockEffect decOrder ks src dst s
  | .mgDelkeys ks =>
    .ok () ((afterAnswers s 4).setSlot ks
      ((s.slotAt ks).overwriteMg (drawn s 0 32) (drawn s 1 32) (drawn s 2 32) (drawn s 3 32)).unscheduled)
  | .xtsEnc ks kt src dst len iv ivlen => xtsBody .encrypt ⟨ks, kt, src, dst, len, iv, ivlen⟩ s
  | .xtsDec ks kt src dst len iv ivlen => xtsBody .decrypt ⟨ks, kt, src, dst, len, iv, ivlen⟩ s

theorem draws_mgBlockBody (ord : List Nat) (ks : SlotIx) (src dst : Addr) (s : State) :
    Draws ks s 32 (mgBlockBody ord ks src dst s) (mgBlockEffect ord ks src dst s) := by
  unfold mgBlockBody mgBlockEffect mgDrawnOutput
  rcases fillWords_cases ks 32 s with ⟨hok, hf⟩ | ⟨j, hj, hok, hn, hf⟩ <;> rw [hf]
  · refine .inl ⟨hok, ?_⟩
    simp only [Res.bind]
    rcases readBytes_cases src.toNat 8 (afterAnswers s 32) with ⟨bs, -, hr⟩ | ⟨x, -, hr⟩ <;> rw [hr]
    rfl
  · exact .inr ⟨j, hj, hok, hn, rfl⟩

theorem draws_kdestroy (ks : SlotIx) (s : State) :
    ∃ body, execKdestroy ks s = runCommand 0x16 [slotCheck s ks, emptyCheck s ks] body s ∧
      Draws ks s 6 (body s) (.ok () ((afterAnswers s 6).setSlot ks (destroyedSlot s ks))) := by
  refine ⟨_, rfl, Draws.fill (k := 0) (m := 32) (by decide) (answersOk_zero s) fun h1 =>
    Draws.fill (k := 1) (m := 32) (by decide) h1 fun h2 => ?_⟩
  unfold destroyedSlot
  cases ha : (s.slotAt ks).alg with
  | magma =>
    simp only [slotAt_afterAnswers, ha, if_true]
    exact draws_four_from (k := 2) (m := 32) rfl h2 fun (d1 d2 d3 d4 : KeyBytes) s' =>
      .ok () (s'.setSlot ks (((s'.slotAt ks).overwriteMg d1 d2 d3 d4).destroyed (drawn s 0 32) (drawn s 1 32)))
  | _ =>
    simp only [slotAt_afterAnswers, ha, reduceCtorEq, if_false]
    exact draws_four_from (k := 2) (m := 160) rfl h2 fun (d1 d2 d3 d4 : BitVec 1280) s' =>
      .ok () (s'.setSlot ks (((s'.slotAt ks).overwriteKz d1 d2 d3 d4).destroyed (drawn s 0 32) (drawn s 1 32)))

theorem length_drawsOf_kdestroy (ks : SlotIx) (s : State) : (drawsOf (.kdestroy ks) s).length = 6 := by
  simp only [drawsOf]
  split <;> rfl

/-- Every command is the common frame around its checks and a body that makes the requests of `drawsOf` and then has the
effect of `effectOf`. -/
theorem exec_eq_runCommand_draws (i : Instr) (s : State) :
    ∃ body, exec i s = runCommand (opcodeOf i) (commandChecks s i) body s ∧
      Draws (reportedSlot i) s (drawsOf i s).length (body s) (effectOf i s) := by
  cases i with
  | kcreate ks alg =>
    refine ⟨_, show execKcreate ks alg s = _ from rfl, ?_⟩
    exact Draws.fill (k := 0) (m := 32) Nat.one_pos (answersOk_zero s) Draws.done
  | ksetmask ks => exact ⟨_, rfl, draws_remask ks s⟩
  | kzRemask ks => exact ⟨_, rfl, draws_remask ks s⟩
  | mgRemask ks => exact ⟨_, rfl, draws_remask ks s⟩
  | kdestroy ks =>
    rw [length_drawsOf_kdestroy]
    exact draws_kdestroy ks s
  | kzSched ks =>
    refine ⟨_, show execKzSched ks s = _ from rfl, ?_⟩
    exact draws_two (m := 160) fun (d1 d2 : BitVec 1280) s => .ok () (s.setSlot ks ((s.slotAt ks).kzScheduled d1 d2))
  | mgSched ks =>
    refine ⟨_, show execMgSched ks s = _ from rfl, ?_⟩
    exact draws_two (m := 32) fun (d1 d2 : KeyBytes) s =>
      .ok () (s.setSlot ks ((s.slotAt ks).mgScheduled s.cfg.compat d1 d2))
  | kzDelkeys ks =>
    refine ⟨_, show execKzDelkeys ks s = _ from rfl, ?_⟩
    exact draws_four_from (k := 0) (m := 160) rfl (answersOk_zero s) fun (d1 d2 d3 d4 : BitVec 1280) s =>
      .ok () (s.setSlot ks ((s.slotAt ks).overwriteKz d1 d2 d3 d4).unscheduled)
  | mgDelkeys ks =>
    refine ⟨_, show execMgDelkeys ks s = _ from rfl, ?_⟩
    exact draws_four_from (k := 0) (m := 32) rfl (answersOk_zero s) fun (d1 d2 d3 d4 : KeyBytes) s =>
      .ok () (s.setSlot ks ((s.slotAt ks).overwriteMg d1 d2 d3 d4).unscheduled)
  | mgEnc ks src dst => exact ⟨_, rfl, draws_mgBlockBody encOrder ks src dst s⟩
  | mgDec ks src dst => exact ⟨_, rfl, draws_mgBlockBody decOrder ks src dst s⟩
  | _ => exact ⟨_, rfl, Draws.done (answersOk_zero s)⟩

/-- A command refused by a check takes that error at once. -/
theorem exec_of_refused {i : Instr} {s : State} {e : CoreError} (h : refusalOf i s = some e) :
    exec i s = raise (opcodeOf i) e s := by
  obtain ⟨body, hbody⟩ := exec_eq_runCommand i s
  rw [refusalOf_eq] at h
  rw [hbody, runCommand, h]

/-- A command that passes its checks: its requests are answered and it ends as its effect does, or the first that fails
ends it with no write. -/
theorem exec_of_passed {i : Instr} {s : State} (h : refusalOf i s = none) :
    (answersOk s (drawsOf i s).length ∧ exec i s = finish (opcodeOf i) (effectOf i s)) ∨
      ∃ j < (drawsOf i s).length, answersOk s j ∧ answerAt s j = none ∧
        exec i s = raise (opcodeOf i) (.entropy (reportedSlot i)) (afterAnswers s (j + 1)) := by
  obtain ⟨body, hbody, hdraws⟩ := exec_eq_runCommand_draws i s
  rw [refusalOf_eq] at h
  rw [hbody, runCommand_of_none _ _ _ _ h]
  rcases hdraws with ⟨hok, hd⟩ | ⟨j, hj, hok, hn, hd⟩ <;> rw [hd]
  · exact .inl ⟨hok, rfl⟩
  · exact .inr ⟨j, hj, hok, hn, rfl⟩

theorem not_answersOk_of_none {s : State} {j n : Nat} (hj : j < n) (hn : answerAt s j = none) : ¬ answersOk s n := fun h =>
  absurd (h j hj) (by rw [hn]; exact nofun)

/-- The command whose requests are all answered. -/
theorem exec_of_answered {i : Instr} {s : State} (h : refusalOf i s = none)
    (hok : answersOk s (drawsOf i s).length) : exec i s = finish (opcodeOf i) (effectOf i s) := by
  rcases exec_of_passed h with ⟨-, he⟩ | ⟨j, hj, -, hn, -⟩
  · exact he
  · exact absurd hok (not_answersOk_of_none hj hn)

/-- The command one of whose requests fails. -/
theorem exec_of_failed_draw {i : Instr} {s : State} {j : Nat} (h : refusalOf i s = none)
    (hj : j < (drawsOf i s).length) (hok : answersOk s j) (hn : answerAt s j = none) :
    exec i s = raise (opcodeOf i) (.entropy (reportedSlot i)) (afterAnswers s (j + 1)) := by
  rcases exec_of_passed h with ⟨hall, -⟩ | ⟨j', hj', hok', hn', he⟩
  · exact absurd hall (not_answersOk_of_none hj hn)
  · rcases Nat.lt_trichotomy j j' with hlt | rfl | hlt
    · exact absurd hok' (not_answersOk_of_none hlt hn)
    · exact he
    · exact absurd hok (not_answersOk_of_none hlt hn')

/-- The same with no requests: the commands that draw nothing, and XTS with its whole body. -/
theorem exec_of_no_draws {i : Instr} {s : State} (h : refusalOf i s = none) (hd : drawsOf i s = []) :
    exec i s = finish (opcodeOf i) (effectOf i s) :=
  exec_of_answered h (by rw [hd]; exact answersOk_zero s)

/-- Everything any command can do. -/
theorem exec_cases (i : Instr) (s : State) :
    (∃ e, refusalOf i s = some e ∧ exec i s = raise (opcodeOf i) e s) ∨
      (∃ n, refusalOf i s = none ∧ exec i s = raise (opcodeOf i) (.entropy (reportedSlot i)) (afterAnswers s n)) ∨
      (refusalOf i s = none ∧ answersOk s (drawsOf i s).length ∧ exec i s = finish (opcodeOf i) (effectOf i s)) := by
  cases h : refusalOf i s with
  | some e => exact .inl ⟨e, rfl, exec_of_refused h⟩
  | none =>
    rcases exec_of_passed h with ⟨hok, he⟩ | ⟨j, -, -, -, he⟩
    · exact .inr (.inr ⟨rfl, hok, he⟩)
    · exact .inr (.inl ⟨j + 1, rfl, he⟩)

end Sys2Proof.Machine
end

section
/-! SUPPORT. The frame of a command's effect, the errors it can end with and where it stops. -/

namespace Sys2Proof.Machine

/-! ## Stops: bytes of `MEM` that nothing has written -/

/-- The part of a command ends in a stop only at a byte that nothing had written when the part began. -/
def Res.StopsUnwritten {α : Type} (s : State) (r : Res α) : Prop :=
  ∀ f, r = .stop f → ∃ y, f = .unwrittenRead y ∧ memByte s.mem y = none

theorem stopsUnwritten_ok {α : Type} {s : State} (a : α) (t : State) : (Res.ok a t).StopsUnwritten s :=
  fun _ h => nomatch h

theorem stopsUnwritten_err {α : Type} {s : State} (e : CoreError) (t : State) :
    (Res.err e t : Res α).StopsUnwritten s :=
  fun _ h => nomatch h

theorem stopsUnwritten_bind {α β : Type} {s : State} {r : Res α} {k : α → State → Res β} (hr : r.StopsUnwritten s)
    (hk : ∀ a t, r = .ok a t → (k a t).StopsUnwritten s) : (r.bind k).StopsUnwritten s := fun f h => by
  rcases (Res.bind_eq_stop r k f).1 h with h | ⟨a, t, hok, h⟩
  · exact hr f h
  · exact hk a t hok f h

theorem stopsUnwritten_readBytes (a n : Nat) (s : State) : (readBytes a n s).StopsUnwritten s := by
  rcases readBytes_cases a n s with ⟨bs, -, hr⟩ | ⟨x, hx, hr⟩ <;> rw [hr]
  · exact stopsUnwritten_ok _ _
  · intro f hf
    cases hf
    obtain ⟨-, hnone, -⟩ := (memRead_eq_error _ _ _ _).1 hx
    exact ⟨x, rfl, hnone⟩

theorem readBytes_eq_ok {a n : Nat} {s t : State} {bs : List Byte} (h : readBytes a n s = .ok bs t) :
    t = s ∧ memRead s.mem a n = .ok bs := by
  rcases readBytes_cases a n s with ⟨bs', hm, hr⟩ | ⟨x, -, hr⟩ <;> rw [hr] at h <;> cases h
  exact ⟨rfl, hm⟩

/-- A store writes bytes and unwrites none. -/
theorem memByte_eq_none_of_store {s : State} {a : Nat} {bs : List Byte} {y : Nat}
    (h : memByte (s.store a bs).mem y = none) : memByte s.mem y = none := by
  rw [State.store_mem, memByte_memWrite] at h
  split at h
  · rw [List.getElem?_eq_none_iff] at h
    omega
  · exact h

theorem stopsUnwritten_rawBlock (dir : Direction) (who k : SlotIx) (x : Block) (s u : State) :
    (rawBlock dir who k x u).StopsUnwritten s := by
  rcases rawBlock_cases dir who k x u with ⟨-, h⟩ | ⟨j, -, -, -, h⟩ <;> rw [h]
  · exact stopsUnwritten_ok _ _
  · exact stopsUnwritten_err _ _

theorem stopsUnwritten_initialTweak (who k : SlotIx) (x : Block) (s u : State) :
    (initialTweak who k x u).StopsUnwritten s := by
  rcases initialTweak_cases who k x u with ⟨t, -, h⟩ | ⟨j, -, -, -, h⟩ <;> rw [h]
  · exact stopsUnwritten_ok _ _
  · exact stopsUnwritten_err _ _

theorem rawBlock_eq_ok {dir : Direction} {who k : SlotIx} {x y : Block} {s t : State}
    (h : rawBlock dir who k x s = .ok y t) :
    answersOk s (rawDraws s k) ∧ y = rawOutput dir s k x ∧ t = afterAnswers s (rawDraws s k) := by
  rcases rawBlock_cases dir who k x s with ⟨hok, hr⟩ | ⟨j, -, -, -, hr⟩ <;> rw [hr] at h <;> cases h
  exact ⟨hok, rfl, rfl⟩

theorem stopsUnwritten_xtsBlocks (dir : Direction) (ks : SlotIx) (src dst bd m n : Nat) (x : Block) (s : State) :
    (xtsBlocks dir ks src dst bd m n x s).StopsUnwritten s := by
  induction m generalizing n x s with
  | zero => exact stopsUnwritten_ok _ _
  | succ m ih =>
    rw [xtsBlocks]
    refine stopsUnwritten_bind (stopsUnwritten_readBytes _ _ s) fun bs u hread => ?_
    obtain ⟨rfl, -⟩ := readBytes_eq_ok hread
    refine stopsUnwritten_bind (stopsUnwritten_rawBlock _ _ _ _ _ _) fun c v hraw => ?_
    obtain ⟨-, -, rfl⟩ := rawBlock_eq_ok hraw
    intro f hf
    obtain ⟨y, hy, hnone⟩ := ih _ _ _ f hf
    exact ⟨y, hy, memByte_eq_none_of_store hnone⟩

theorem initialTweak_eq_ok {who k : SlotIx} {x y : Block} {s t : State} (h : initialTweak who k x s = .ok y t) :
    answersOk s (2 * rawDraws s k) ∧ t = afterAnswers s (2 * rawDraws s k) := by
  rcases initialTweak_cases who k x s with ⟨z, hok, hr⟩ | ⟨j, -, -, -, hr⟩ <;> rw [hr] at h <;> cases h
  exact ⟨hok, rfl⟩

theorem stopsUnwritten_xtsProcess (dir : Direction) (o : XtsOperands) (s : State) :
    (xtsProcess dir o s).StopsUnwritten s := by
  unfold xtsProcess
  refine stopsUnwritten_bind (stopsUnwritten_readBytes _ _ s) fun bs u hread => ?_
  obtain ⟨rfl, -⟩ := readBytes_eq_ok hread
  refine stopsUnwritten_bind (stopsUnwritten_initialTweak _ _ _ _ _) fun x v hx => ?_
  obtain ⟨-, rfl⟩ := initialTweak_eq_ok hx
  refine stopsUnwritten_bind (fun f hf => ?_) fun _ w _ => stopsUnwritten_ok _ _
  exact stopsUnwritten_xtsBlocks _ _ _ _ _ _ _ _ (afterAnswers u _) f hf

theorem exitRemask_ne_stop (o : XtsOperands) (first : Option CoreError) (s : State) (f : Fault) :
    exitRemask o first s ≠ .stop f := by
  obtain ⟨u, t, -, -, ⟨h, -⟩ | ⟨e, h, -⟩⟩ := exitRemask_cases o first s <;> rw [h] <;> exact nofun

theorem stopsUnwritten_xtsBody (dir : Direction) (o : XtsOperands) (s : State) : (xtsBody dir o s).StopsUnwritten s := by
  intro f hf
  unfold xtsBody at hf
  split at hf
  · exact absurd hf (exitRemask_ne_stop _ _ _ _)
  · exact absurd hf (exitRemask_ne_stop _ _ _ _)
  · rename_i hp
    exact stopsUnwritten_xtsProcess dir o s f (hp.trans hf)

/-- The effect of any command stops only at an unwritten byte. -/
theorem stopsUnwritten_effectOf (i : Instr) (s : State) : (effectOf i s).StopsUnwritten s := by
  have hblock : ∀ f ks src dst, (kzBlockBody f ks src dst s).StopsUnwritten s := fun f ks src dst =>
    stopsUnwritten_bind (stopsUnwritten_readBytes _ _ s) fun _ _ _ => stopsUnwritten_ok _ _
  have hmg : ∀ ord ks src dst, (mgBlockEffect ord ks src dst s).StopsUnwritten s := fun ord ks src dst =>
    stopsUnwritten_bind (stopsUnwritten_readBytes _ _ (afterAnswers s 32)) fun _ _ _ => stopsUnwritten_ok _ _
  cases i with
  | kload ks src => exact stopsUnwritten_bind (stopsUnwritten_readBytes _ _ s) fun _ _ _ => stopsUnwritten_ok _ _
  | kzEnc ks src dst => exact hblock _ ks src dst
  | kzDec ks src dst => exact hblock _ ks src dst
  | mgEnc ks src dst => exact hmg _ ks src dst
  | mgDec ks src dst => exact hmg _ ks src dst
  | xtsEnc => exact stopsUnwritten_xtsBody _ _ s
  | xtsDec => exact stopsUnwritten_xtsBody _ _ s
  | _ => exact stopsUnwritten_ok _ _

/-! ## Errors of an effect: XTS alone has some, and only failed requests -/

/-- An error of this part is `E_ENTROPY` of slot k. -/
def Res.FailsWith {α : Type} (k : SlotIx) (r : Res α) : Prop :=
  ∀ e t, r = .err e t → e = .entropy k

theorem failsWith_exitRemask (o : XtsOperands) {first : Option CoreError}
    (hf : ∀ e, first = some e → e = .entropy o.ks) (s : State) : (exitRemask o first s).FailsWith o.ks := by
  intro e t h
  obtain ⟨u, v, -, -, ⟨h', -⟩ | ⟨e', h', he⟩⟩ := exitRemask_cases o first s <;> rw [h'] at h <;> cases h
  rcases he with he | ⟨-, he⟩
  · exact hf _ he
  · exact he

theorem failsWith_xtsBody (dir : Direction) (o : XtsOperands) (s : State) : (xtsBody dir o s).FailsWith o.ks := by
  unfold xtsBody
  rcases xtsProcess_cases dir o s with ⟨n, mem', -, -, h | h⟩ | ⟨y, h⟩ <;> rw [h]
  · exact failsWith_exitRemask o (first := none) nofun _
  · exact failsWith_exitRemask o (fun e he => (Option.some.inj he).symm) _
  · intro e t he
    cases he

/-- A read of `MEM` and what is written from it end in no error. -/
theorem readBytes_bind_ne_err (a n : Nat) (s : State) (f : List Byte → State → State) (e : CoreError) (t : State) :
    ((readBytes a n s).bind fun b s => .ok () (f b s)) ≠ .err e t := by
  rcases readBytes_cases a n s with ⟨bs, -, hr⟩ | ⟨x, -, hr⟩ <;> rw [hr] <;> exact nofun

/-- After its draws only an XTS command can end in an error, and then with `E_ENTROPY` of the slot it names first. -/
theorem effectOf_eq_err {i : Instr} {s t : State} {e : CoreError} (h : effectOf i s = .err e t) :
    isXts i = true ∧ e = .entropy (reportedSlot i) := by
  cases i with
  | kload ks src => exact absurd h (readBytes_bind_ne_err _ _ _ _ _ _)
  | kzEnc ks src dst => exact absurd h (readBytes_bind_ne_err _ _ _ _ _ _)
  | kzDec ks src dst => exact absurd h (readBytes_bind_ne_err _ _ _ _ _ _)
  | mgEnc ks src dst => exact absurd h (readBytes_bind_ne_err _ _ _ _ _ _)
  | mgDec ks src dst => exact absurd h (readBytes_bind_ne_err _ _ _ _ _ _)
  | xtsEnc ks kt src dst len iv ivlen => exact ⟨rfl, failsWith_xtsBody _ _ s e t h⟩
  | xtsDec ks kt src dst len iv ivlen => exact ⟨rfl, failsWith_xtsBody _ _ s e t h⟩
  | _ => exact nomatch h

/-! ## The frame -/

/-- Address a is none of those command i stores to: one at `dst` for GFMUL, a block at `dst` for the block commands, `len`
at `dst` for XTS. -/
def outsideDestination (a : Nat) : Instr → Prop
  | .gfmul _ _ dst => ¬ within a dst.toNat 1
  | .kzEnc _ _ dst | .kzDec _ _ dst => ¬ within a dst.toNat 16
  | .mgEnc _ _ dst | .mgDec _ _ dst => ¬ within a dst.toNat 8
  | .xtsEnc _ _ _ dst len _ _ | .xtsDec _ _ _ dst len _ _ => ¬ within a dst.toNat len.toNat
  | _ => True

/-- What the effect of command i leaves of the state s when it ends in t, with or without an error. -/
structure Frame (i : Instr) (s t : State) : Prop where
  cfg : t.cfg = s.cfg
  port : t.port = s.port
  reply : t.reply = s.reply
  halted : t.halted = s.halted
  faults : t.faults = s.faults
  tables : i ≠ .tbuild → t.tablesValid = s.tablesValid
  slots : ∀ k, k ∉ slotFields i → t.slotAt k = s.slotAt k
  checked : ∀ k, i = .kchkicode k → t.slots = s.slots
  res : ∀ k, (t.slotAt k).res.toNat ≤ (s.slotAt k).res.toNat ∨ ((s.slotAt k).alg = .empty ∧ ∃ alg, i = .kcreate k alg)
  mem : ∀ a, outsideDestination a i → memByte t.mem a = memByte s.mem a

theorem Frame.refl (i : Instr) (s : State) : Frame i s s where
  cfg := rfl
  port := rfl
  reply := rfl
  halted := rfl
  faults := rfl
  tables _ := rfl
  slots _ _ := rfl
  checked _ _ := rfl
  res _ := .inl (Nat.le_refl _)
  mem _ _ := rfl

theorem Frame.afterAnswers {i : Instr} {s t : State} (h : Frame i s t) (n : Nat) : Frame i s (afterAnswers t n) :=
  { h with }

/-- A change of `MEM` inside the command's destination. -/
theorem Frame.withMem {i : Instr} {s t : State} (h : Frame i s t) {m : Memory}
    (hm : ∀ a, outsideDestination a i → memByte m a = memByte t.mem a) : Frame i s { t with mem := m } :=
  { h with mem := fun a ha => (hm a ha).trans (h.mem a ha) }

theorem Frame.store {i : Instr} {s t : State} (h : Frame i s t) (a : Nat) (bs : List Byte)
    (hd : ∀ x, outsideDestination x i → ¬ within x a bs.length) : Frame i s (t.store a bs) :=
  h.withMem fun x hx => memByte_store_of_not_within t a bs x (hd x hx)

theorem Frame.scramble {i : Instr} {s t : State} (h : Frame i s t) (a n : Nat)
    (hd : ∀ x, outsideDestination x i → ¬ within x a n) : Frame i s (t.scramble a n) :=
  have hs := h.store a ((List.range n).map fun j => Config.freeByte (t.freeBytes + j)) (by simpa using hd)
  { hs with }

/-- A new slot in a field of the command, with a counter no higher than before. -/
theorem Frame.setSlot {i : Instr} {s t : State} (h : Frame i s t) {k : SlotIx} {sl : Slot} (hk : k ∈ slotFields i)
    (hi : ∀ j, i ≠ .kchkicode j)
    (hres : sl.res.toNat ≤ (t.slotAt k).res.toNat ∨ ((s.slotAt k).alg = .empty ∧ ∃ alg, i = .kcreate k alg)) :
    Frame i s (t.setSlot k sl) :=
  { h with
    slots := fun j hj => by
      rw [slotAt_setSlot_ne t k j sl fun e => hj (e ▸ hk)]
      exact h.slots j hj
    checked := fun j hj => absurd hj (hi j)
    res := fun j => by
      rcases slotAt_setSlot_cases t k j sl with he | ⟨rfl, he⟩ <;> rw [he]
      · exact h.res j
      · rcases hres with hle | hc
        · exact (h.res j).imp_left hle.trans
        · exact .inr hc }

/-! ## The frame of each command's effect -/

theorem remaskedSlot_res (s : State) (k : SlotIx) : (remaskedSlot s k).res = (s.slotAt k).res := by
  unfold remaskedSlot
  dsimp only
  split
  · split <;> rfl
  · rfl

theorem destroyedSlot_res (s : State) (k : SlotIx) : (destroyedSlot s k).res = 0 := by
  unfold destroyedSlot
  split <;> rfl

theorem spend_res_le {sl : Slot} {n : Nat} (h : n ≤ sl.res.toNat) : (sl.spend n).res.toNat ≤ sl.res.toNat := by
  rw [spend_res_toNat sl n h]
  exact Nat.sub_le _ _

/-- A command that passes its checks passes each of them. -/
theorem passed_of_refusalOf {i : Instr} {s : State} (h : refusalOf i s = none) :
    firstFailure (haltedCheck s :: commandChecks s i) = none := by
  rw [← refusalOf_eq]
  exact h

theorem AttemptedRemask.frame {i : Instr} {k : SlotIx} {s u t : State} (h : AttemptedRemask k u t) (hf : Frame i s u)
    (hk : k ∈ slotFields i) (hi : ∀ j, i ≠ .kchkicode j) : Frame i s t := by
  rcases h with ⟨-, rfl⟩ | ⟨j, -, -, -, rfl⟩
  · exact (hf.afterAnswers _).setSlot hk hi (.inl (by rw [remaskedSlot_res]; exact Nat.le_refl _))
  · exact hf.afterAnswers _

theorem exitRemask_frame {i : Instr} {o : XtsOperands} (first : Option CoreError) {s u : State} (hf : Frame i s u)
    (hs : o.ks ∈ slotFields i) (ht : o.kt ∈ slotFields i) (hi : ∀ j, i ≠ .kchkicode j) :
    (exitRemask o first u).Leaves (Frame i s) := by
  obtain ⟨v, t, hv, hvt, h⟩ := exitRemask_cases o first u
  have hframe : Frame i s t := hvt.frame (hv.frame hf hs hi) ht hi
  rcases h with ⟨h, -⟩ | ⟨e, h, -⟩ <;> rw [h] <;> exact hframe

/-- The counters taken off for the blocks of an XTS command whose resource checks passed (R103). -/
theorem Frame.xtsSpent {i : Instr} {o : XtsOperands} {s u : State} (hf : Frame i s u) (hs : o.ks ∈ slotFields i)
    (ht : o.kt ∈ slotFields i) (hi : ∀ j, i ≠ .kchkicode j) (hne : o.ks ≠ o.kt)
    (hrs : xtsDataBlocks o u ≤ (u.slotAt o.ks).res.toNat) (hrt : xtsTweakBlocks o u ≤ (u.slotAt o.kt).res.toNat) :
    Frame i s (xtsSpent o u) := by
  unfold Machine.xtsSpent
  dsimp only
  refine (hf.setSlot hs hi (.inl (spend_res_le hrs))).setSlot ht hi (.inl ?_)
  rw [slotAt_setSlot_ne _ _ _ _ (Ne.symm hne)]
  exact spend_res_le hrt

/-- What the checks of an XTS command say of its slots and its counters. -/
theorem xtsChecks_passed {o : XtsOperands} {s : State} (hp : firstFailure (haltedCheck s :: xtsChecks o s) = none) :
    (s.slotAt o.ks).alg ≠ .empty ∧ (s.slotAt o.kt).alg ≠ .empty ∧ (s.slotAt o.ks).sched = true ∧
      (s.slotAt o.kt).sched = true ∧ o.ks ≠ o.kt ∧ o.len.toNat % xtsBlockSize o s = 0 ∧
      xtsDataBlocks o s ≤ (s.slotAt o.ks).res.toNat ∧ xtsTweakBlocks o s ≤ (s.slotAt o.kt).res.toNat := by
  refine ⟨alg_ne_empty_of_passed hp (by simp [xtsChecks]), not_of_passed hp (e := .emptyTweak o.kt) (by simp [xtsChecks]),
    ?_, ?_, not_of_passed hp (e := .sameSlot o.ks) (by simp [xtsChecks]),
    not_not.1 (not_of_passed hp (e := .lenNotMultiple) (by simp [xtsChecks])),
    le_res_of_passed hp (e := .dataResource o.ks) (by simp [xtsChecks]),
    le_res_of_passed hp (e := .tweakResource o.kt) (by simp [xtsChecks])⟩
  · simpa [schedCheck] using check_passed (c := schedCheck s o.ks) hp (by simp [xtsChecks])
  · simpa [schedCheck] using check_passed (c := schedCheck s o.kt) hp (by simp [xtsChecks])

theorem xtsBody_frame (dir : Direction) {i : Instr} {o : XtsOperands} {s : State}
    (hp : firstFailure (haltedCheck s :: xtsChecks o s) = none) (hs : o.ks ∈ slotFields i) (ht : o.kt ∈ slotFields i)
    (hi : ∀ j, i ≠ .kchkicode j) (hd : ∀ x, outsideDestination x i → ¬ within x o.dst.toNat o.len.toNat) :
    (xtsBody dir o s).Leaves (Frame i s) := by
  obtain ⟨-, -, -, -, hne, -, hrs, hrt⟩ := xtsChecks_passed hp
  unfold xtsBody
  rcases xtsProcess_cases dir o s with ⟨n, mem', hframe, -, h⟩ | ⟨y, hy⟩
  swap
  · rw [hy]
    trivial
  have hf : Frame i s { afterAnswers s n with mem := mem' } :=
    ((Frame.refl i s).afterAnswers n).withMem fun a ha => hframe a (hd a ha)
  rcases h with h | h <;> rw [h]
  · exact exitRemask_frame none (hf.xtsSpent hs ht hi hne hrs hrt) hs ht hi
  · exact exitRemask_frame _ (hf.scramble _ _ hd) hs ht hi

/-- The end of a single-block command: n bytes stored at `dst`, one unit of the resource spent. -/
theorem Frame.storeSpend {i : Instr} {s u : State} (hf : Frame i s u) {ks : SlotIx} {dst : Addr} {n : Nat}
    {bs : List Byte} (hlen : bs.length = n) (hd : ∀ x, outsideDestination x i → ¬ within x dst.toNat n)
    (hk : ks ∈ slotFields i) (hi : ∀ j, i ≠ .kchkicode j) (hres : 1 ≤ (u.slotAt ks).res.toNat) :
    Frame i s ((u.store dst.toNat bs).setSlot ks ((u.slotAt ks).spend 1)) := by
  subst hlen
  exact (hf.store _ _ hd).setSlot hk hi (.inl (spend_res_le hres))

/-- The counter of a single-block command's slot is not 0 when its checks pass (R103). -/
theorem one_le_res_of_passed {i : Instr} {ks : SlotIx} {src dst : Addr} {s : State} (h : refusalOf i s = none)
    (hi : i = .kzEnc ks src dst ∨ i = .kzDec ks src dst ∨ i = .mgEnc ks src dst ∨ i = .mgDec ks src dst) :
    1 ≤ (s.slotAt ks).res.toNat := by
  have hp := passed_of_refusalOf h
  rcases hi with rfl | rfl | rfl | rfl <;>
    exact le_res_of_passed hp (e := .dataResource ks) (by simp [commandChecks, kzBlockChecks, mgBlockChecks])

/-- KCREATE is refused on a slot that is not EMPTY (R104). -/
theorem alg_eq_empty_of_kcreate_passed {ks : SlotIx} {alg : Byte} {s : State} (h : refusalOf (.kcreate ks alg) s = none) :
    (s.slotAt ks).alg = .empty :=
  not_not.1 (not_of_passed (passed_of_refusalOf h) (e := .occupied ks) (by simp [commandChecks]))

/-- The effect of a command that passes its checks stays inside its frame. -/
theorem effectOf_frame {i : Instr} {s : State} (h : refusalOf i s = none) : (effectOf i s).Leaves (Frame i s) := by
  have hrefl := Frame.refl i s
  have hfrom := hrefl.afterAnswers
  cases i with
  | gfmul x y dst => exact hrefl.store _ _ fun _ hx => hx
  | tbuild => exact { hrefl with tables := fun hne => absurd rfl hne }
  | kcreate ks alg => exact (hfrom _).setSlot (.head _) nofun (.inr ⟨alg_eq_empty_of_kcreate_passed h, alg, rfl⟩)
  | kload ks src =>
    exact leaves_readBytes_bind s _ _ fun _ => hrefl.setSlot (.head _) nofun (.inl (Nat.le_refl _))
  | ksetmask ks => exact (hfrom _).setSlot (.head _) nofun (.inl (remaskedSlot_res s ks ▸ Nat.le_refl _))
  | kzRemask ks => exact (hfrom _).setSlot (.head _) nofun (.inl (remaskedSlot_res s ks ▸ Nat.le_refl _))
  | mgRemask ks => exact (hfrom _).setSlot (.head _) nofun (.inl (remaskedSlot_res s ks ▸ Nat.le_refl _))
  | kunmask ks => exact hrefl.setSlot (.head _) nofun (.inl (congrArg BitVec.toNat (Slot.unmasked_res _)).le)
  | kseticode ks => exact hrefl.setSlot (.head _) nofun (.inl (Nat.le_refl _))
  | kchkicode ks => exact hrefl
  | kdestroy ks => exact (hfrom _).setSlot (.head _) nofun (.inl (destroyedSlot_res s ks ▸ Nat.zero_le _))
  | kzSched ks => exact (hfrom _).setSlot (.head _) nofun (.inl (Nat.le_refl _))
  | kzDelkeys ks => exact (hfrom _).setSlot (.head _) nofun (.inl (Nat.le_refl _))
  | mgSched ks => exact (hfrom _).setSlot (.head _) nofun (.inl (Nat.le_refl _))
  | mgDelkeys ks => exact (hfrom _).setSlot (.head _) nofun (.inl (Nat.le_refl _))
  | kzEnc ks src dst =>
    exact leaves_readBytes_bind s _ _ fun _ => hrefl.storeSpend (length_toBytes _ _) (fun _ hx => hx) (.head _) nofun
      (one_le_res_of_passed h (.inl rfl))
  | kzDec ks src dst =>
    exact leaves_readBytes_bind s _ _ fun _ => hrefl.storeSpend (length_toBytes _ _) (fun _ hx => hx) (.head _) nofun
      (one_le_res_of_passed h (.inr (.inl rfl)))
  | mgEnc ks src dst =>
    exact leaves_readBytes_bind _ _ _ fun _ => (hfrom 32).storeSpend (length_toBytes _ _) (fun _ hx => hx) (.head _)
      nofun (one_le_res_of_passed h (.inr (.inr (.inl rfl))))
  | mgDec ks src dst =>
    exact leaves_readBytes_bind _ _ _ fun _ => (hfrom 32).storeSpend (length_toBytes _ _) (fun _ hx => hx) (.head _)
      nofun (one_le_res_of_passed h (.inr (.inr (.inr rfl))))
  | xtsEnc ks kt src dst len iv ivlen =>
    exact xtsBody_frame .encrypt (passed_of_refusalOf h) (by simp [slotFields]) (by simp [slotFields]) nofun
      fun _ hx => hx
  | xtsDec ks kt src dst len iv ivlen =>
    exact xtsBody_frame .decrypt (passed_of_refusalOf h) (by simp [slotFields]) (by simp [slotFields]) nofun
      fun _ hx => hx

end Sys2Proof.Machine
end

section
/-! PROOFS. What holds of every command: the order of its checks (R217), what an error leaves (R17, R210, R220), how it
ends, what it reports (R212, R218), what it leaves unchanged, and the resource counters (R103). -/

namespace Sys2Proof.Machine

/-! ## Refusals, failed draws and ends -/

/-- Settles O17: a command's own checks are steps 1 to 8 of R217, and the first that fails raises its error. -/
theorem checksFollowTheGlobalOrder : Obligations.ChecksFollowTheGlobalOrder := by
  intro i s e h
  rw [exec_of_refused h, raise_eq]

/-- An error other than `E_NOTABLES` sub 0 writes the status registers alone. -/
theorem raise_eq_endedWith (op : Byte) {e : CoreError} (h : e ≠ .noTables) (s : State) :
    raise op e s = .next (s.endedWith op e.code e.sub e.slot) := by
  rw [raise_eq, decide_eq_false h, Bool.or_false]
  rfl

/-- Settles O18: every request comes before the first write, and the error names the command's first slot field. -/
theorem failedDrawChangesNothing : Obligations.FailedDrawChangesNothing := by
  intro i s j _ hpassed hj hok hn
  rw [exec_of_failed_draw hpassed hj hok hn, raise_eq_endedWith _ (e := .entropy _) nofun]
  rfl

/-- The taking of an error leaves everything but the status registers, HALTED and what the state before it had drawn. -/
theorem sameButStatus_of_raise {op : Byte} {e : CoreError} {s t : State} {n : Nat}
    (h : raise op e (afterAnswers s n) = .next t) : SameButStatus s t := by
  rw [raise_eq] at h
  cases h
  rfl

/-- Settles O19: a command that is no XTS command ends in error before its first write. -/
theorem failureChangesOnlyStatus : Obligations.FailureChangesOnlyStatus := by
  intro i s t h hcode hxts
  rcases exec_cases i s with ⟨e, -, he⟩ | ⟨n, -, he⟩ | ⟨-, -, he⟩ <;> rw [he] at h
  · exact sameButStatus_of_raise (n := 0) h
  · exact sameButStatus_of_raise h
  · rcases (finish_eq_next _ _ _).1 h with ⟨u, -, rfl⟩ | ⟨e, u, heff, rfl⟩
    · exact absurd rfl hcode
    · obtain ⟨hx, rfl⟩ := effectOf_eq_err heff
      exact absurd (by simp [CoreError.code]) (hxts hx)

/-- Settles O20: a refusal and a failed draw complete, and the effect of a command completes or stops at an unwritten
byte. -/
theorem everyCommandEnds : Obligations.EveryCommandEnds := by
  intro i s
  rcases exec_cases i s with ⟨e, -, he⟩ | ⟨n, -, he⟩ | ⟨-, -, he⟩ <;> rw [he]
  · exact .inl ⟨_, rfl⟩
  · exact .inl ⟨_, rfl⟩
  · cases hr : effectOf i s with
    | ok _ u => exact .inl ⟨_, rfl⟩
    | err e u => exact .inl ⟨_, rfl⟩
    | stop f =>
      obtain ⟨y, rfl, hy⟩ := stopsUnwritten_effectOf i s f hr
      exact .inr ⟨y, rfl, hy⟩

/-! ## The report of a completion -/

/-- The pairs of code and sub-cause a command can report: R212's table without the two of the decoder. -/
def reportablePairs : List (Nat × Nat) :=
  [(0, 0), (1, 0), (1, 1), (1, 2), (2, 0), (2, 1), (3, 0), (3, 1), (3, 2), (3, 3), (3, 4), (4, 0), (4, 1), (5, 0),
    (5, 1), (5, 2), (5, 3), (5, 4), (5, 5), (6, 0), (7, 2), (8, 0), (8, 1)]

/-- An error of the commands, not of the decoder, that names slot 0 or a slot of the list. -/
def CoreError.ReportedBy (ks : List SlotIx) (e : CoreError) : Prop :=
  e ≠ .badOpcode ∧ e ≠ .mustBeZero ∧ e.slot ∈ 0 :: ks

theorem pair_mem_reportablePairs {e : CoreError} (h : e ≠ .badOpcode) (h' : e ≠ .mustBeZero) :
    (e.code, e.sub) ∈ reportablePairs := by
  cases e with
  | badOpcode => exact absurd rfl h
  | mustBeZero => exact absurd rfl h'
  | _ => simp [reportablePairs, CoreError.code, CoreError.sub]

/-- The errors of length and of the tables name no slot (R212). -/
theorem slot_eq_zero_of_code {e : CoreError} (h : e.code = 3 ∨ e.code = 8) : e.slot = 0 := by
  cases e <;> simp [CoreError.code, CoreError.slot] at h ⊢

theorem reportedBy_of_mem_commandChecks (s : State) (i : Instr) :
    ∀ c ∈ commandChecks s i, c.2.ReportedBy (slotFields i) := by
  cases i <;>
    simp [commandChecks, kzBlockChecks, mgBlockChecks, xtsChecks, keyChecks, slotCheck, emptyCheck, engineCheck,
      schedCheck, srcCheck, dstCheck, ivCheck, roundKeyCheck, CoreError.ReportedBy, CoreError.slot, slotFields]

/-- A refusal names a slot of the command or none. -/
theorem reportedBy_of_refused {i : Instr} {s : State} {e : CoreError} (h : refusalOf i s = some e) :
    e.ReportedBy (slotFields i) := by
  rw [refusalOf_eq] at h
  obtain ⟨p, q, hl, -⟩ := (firstFailure_eq_some _ _).1 h
  have hmem : (true, e) ∈ haltedCheck s :: commandChecks s i := hl ▸ by simp
  rcases List.mem_cons.1 hmem with hhalt | hmem
  · obtain rfl : e = .isHalted := congrArg Prod.snd hhalt
    exact ⟨nofun, nofun, .head _⟩
  · exact reportedBy_of_mem_commandChecks s i _ hmem

theorem reportedBy_entropy (i : Instr) : (CoreError.entropy (reportedSlot i)).ReportedBy (slotFields i) := by
  refine ⟨nofun, nofun, ?_⟩
  simp only [CoreError.slot, reportedSlot]
  cases slotFields i <;> simp

/-- The state an error leaves (R218, R221). -/
def State.failedWith (s : State) (op : Byte) (e : CoreError) : State :=
  { s.endedWith op e.code e.sub e.slot with halted := s.halted || decide (e = .noTables) }

@[simp] theorem State.failedWith_code (s : State) (op : Byte) (e : CoreError) :
    (s.failedWith op e).code = BitVec.ofNat 8 e.code := rfl
@[simp] theorem State.failedWith_errSub (s : State) (op : Byte) (e : CoreError) :
    (s.failedWith op e).errSub = BitVec.ofNat 8 e.sub := rfl
@[simp] theorem State.failedWith_halted (s : State) (op : Byte) (e : CoreError) :
    (s.failedWith op e).halted = (s.halted || decide (e = .noTables)) := rfl
@[simp] theorem State.failedWith_faults (s : State) (op : Byte) (e : CoreError) :
    (s.failedWith op e).faults = s.faults ||| e.faultBit :=
  if_neg (Nat.ne_of_gt e.code_pos.1)

/-- Every completion of a command: success after an effect inside the command's frame, or an error the command can report,
written over a state inside the frame. -/
theorem exec_eq_next {i : Instr} {s t : State} (h : exec i s = .next t) :
    (∃ u, effectOf i s = .ok () u ∧ refusalOf i s = none ∧ Frame i s u ∧ t = u.ended (opcodeOf i)) ∨
      ∃ (e : CoreError) (u : State), e.ReportedBy (slotFields i) ∧ Frame i s u ∧ t = u.failedWith (opcodeOf i) e := by
  have hraise : ∀ {e : CoreError} {u : State}, e.ReportedBy (slotFields i) → Frame i s u →
      raise (opcodeOf i) e u = .next t →
      ∃ (e : CoreError) (u : State), e.ReportedBy (slotFields i) ∧ Frame i s u ∧ t = u.failedWith (opcodeOf i) e := by
    intro e u he hu h
    rw [raise_eq] at h
    cases h
    exact ⟨e, u, he, hu, rfl⟩
  rcases exec_cases i s with ⟨e, hr, he⟩ | ⟨n, -, he⟩ | ⟨hp, -, he⟩ <;> rw [he] at h
  · exact .inr (hraise (reportedBy_of_refused hr) (.refl i s) h)
  · exact .inr (hraise (reportedBy_entropy i) ((Frame.refl i s).afterAnswers n) h)
  · have hframe := effectOf_frame hp
    rcases (finish_eq_next _ _ _).1 h with ⟨u, heff, rfl⟩ | ⟨e, u, heff, -⟩ <;> rw [heff] at hframe h
    · exact .inl ⟨u, heff, hp, hframe, rfl⟩
    · obtain ⟨-, rfl⟩ := effectOf_eq_err heff
      exact .inr (hraise (reportedBy_entropy i) hframe h)

/-- Settles O14: success writes zeros and leaves `FAULTS`; an error writes its pair of R212 and its bit. -/
theorem completionReportsTheCommand : Obligations.CompletionReportsTheCommand := by
  intro i s t h
  rcases exec_eq_next h with ⟨u, -, -, hu, rfl⟩ | ⟨e, u, ⟨hop, hzero, hslot⟩, hu, rfl⟩
  · exact ⟨rfl, .head _, fun _ => rfl, fun _ => rfl, fun _ => rfl, .head _, hu.faults⟩
  · have hcode : (BitVec.ofNat 8 e.code).toNat = e.code := toNat_ofNat_code e
    have hsub : (BitVec.ofNat 8 e.sub).toNat = e.sub := by
      have := e.sub_le
      rw [BitVec.toNat_ofNat]
      omega
    have hnum : ∀ c : Nat, c < 256 → BitVec.ofNat 8 e.code = BitVec.ofNat 8 c → e.code = c := fun c hc he => by
      have := congrArg BitVec.toNat he
      rwa [hcode, BitVec.toNat_ofNat, Nat.mod_eq_of_lt hc] at this
    refine ⟨rfl, ?_, fun h0 => absurd h0 (ofNat_code_ne_zero e), fun h3 => slot_eq_zero_of_code (.inl (hnum 3 (by decide) h3)),
      fun h8 => slot_eq_zero_of_code (.inr (hnum 8 (by decide) h8)), hslot, ?_⟩
    · rw [State.failedWith_code, State.failedWith_errSub, hcode, hsub]
      exact pair_mem_reportablePairs hop hzero
    · rw [State.failedWith_code, if_neg (ofNat_code_ne_zero e), State.failedWith_faults, hcode, hu.faults]
      rfl

/-! ## What no command changes -/

/-- Settles O21: the frame of the effect, under a completion that writes no memory. -/
theorem commandsStoreOnlyAtTheirDestination : Obligations.CommandsStoreOnlyAtTheirDestination := by
  intro i s t a h ha
  have hout : outsideDestination a i := by
    cases i <;> exact ha
  rcases exec_eq_next h with ⟨u, -, -, hu, rfl⟩ | ⟨e, u, -, hu, rfl⟩
  · exact hu.mem a hout
  · exact hu.mem a hout

/-- Settles O22: the frame of the effect, under a completion that writes HALTED for `E_NOTABLES` alone. -/
theorem commandsFrame : Obligations.CommandsFrame := by
  intro i s t h
  rcases exec_eq_next h with ⟨u, -, -, hu, rfl⟩ | ⟨e, u, -, hu, rfl⟩
  · exact ⟨hu.cfg, hu.port, hu.reply, hu.tables, fun _ => hu.halted, hu.slots, hu.checked⟩
  · refine ⟨hu.cfg, hu.port, hu.reply, hu.tables, fun h8 => ?_, hu.slots, hu.checked⟩
    have hne : e ≠ .noTables := by
      rintro rfl
      exact h8 rfl
    rw [State.failedWith_halted, decide_eq_false hne, Bool.or_false, hu.halted]

/-! ## The resource counters -/

/-- The end of a single-block command takes one unit off the counter of its slot (R103). -/
theorem res_storeSpend {u : State} {k : SlotIx} (a : Nat) (bs : List Byte) (hk : k.toNat < u.slots.length)
    (hres : 1 ≤ (u.slotAt k).res.toNat) :
    (((u.store a bs).setSlot k ((u.slotAt k).spend 1)).slotAt k).res.toNat + 1 = (u.slotAt k).res.toNat := by
  rw [slotAt_setSlot_self _ k _ (by simpa using hk), spend_res_toNat _ 1 hres]
  omega

/-- The effect of a single-block command takes one unit off its slot's counter. -/
theorem effectOf_block_res {i : Instr} {k : SlotIx} {src dst : Addr} {s u : State} (hp : refusalOf i s = none)
    (hk : k.toNat < s.slots.length)
    (hi : i = .kzEnc k src dst ∨ i = .kzDec k src dst ∨ i = .mgEnc k src dst ∨ i = .mgDec k src dst)
    (h : effectOf i s = .ok () u) : (u.slotAt k).res.toNat + 1 = (s.slotAt k).res.toNat := by
  have hres := one_le_res_of_passed hp hi
  have hkz : ∀ f, kzBlockBody f k src dst s = .ok () u → (u.slotAt k).res.toNat + 1 = (s.slotAt k).res.toNat := by
    intro f h
    obtain ⟨bs, v, hread, hv⟩ := (Res.bind_eq_ok _ _ _ _).1 h
    obtain ⟨rfl, -⟩ := readBytes_eq_ok hread
    cases hv
    exact res_storeSpend _ _ hk hres
  have hmg : ∀ ord, mgBlockEffect ord k src dst s = .ok () u →
      (u.slotAt k).res.toNat + 1 = (s.slotAt k).res.toNat := by
    intro ord h
    obtain ⟨bs, v, hread, hv⟩ := (Res.bind_eq_ok _ _ _ _).1 h
    obtain ⟨rfl, -⟩ := readBytes_eq_ok hread
    cases hv
    exact res_storeSpend (u := afterAnswers s 32) _ _ hk hres
  rcases hi with rfl | rfl | rfl | rfl
  · exact hkz _ h
  · exact hkz _ h
  · exact hmg _ h
  · exact hmg _ h

/-- Settles O23: the frame bounds every counter, and a block command's effect takes one unit. -/
theorem resourceOnlyFalls : Obligations.ResourceOnlyFalls := by
  intro i s t h
  rcases exec_eq_next h with ⟨u, heff, hp, hu, rfl⟩ | ⟨e, u, -, hu, rfl⟩
  · exact ⟨hu.res, fun _ _ _ hk hi _ => effectOf_block_res (u := u) hp hk hi heff⟩
  · exact ⟨hu.res, fun _ _ _ _ _ h0 => absurd h0 (ofNat_code_ne_zero e)⟩

end Sys2Proof.Machine
end

section
/-! PROOFS. The field and table commands (R94, R95), the masking laws (R18, R107), the integrity code (R101) and the commands
of the masked-key container (R104 to R111). -/

namespace Sys2Proof.Machine

/-! ## GFMUL and TBUILD -/

/-- Settles O24: one byte is stored. -/
theorem gfmulWritesTheProduct : Obligations.GfmulWritesTheProduct := by
  intro x y dst s h
  refine ⟨(s.store dst.toNat [gfMul x y]).ended 0x01, exec_of_no_draws h rfl, rfl, ?_, fun a ha => ?_⟩
  · exact memByte_store_of_within s dst.toNat [gfMul x y] 0 Nat.one_pos
  · refine memByte_store_of_not_within s dst.toNat [gfMul x y] a fun hw => ha ?_
    obtain ⟨hle, hlt⟩ := hw
    simp only [List.length_singleton] at hlt
    omega

/-- Settles O25: TBUILD has no check but that of HALTED. -/
theorem tbuildMakesTheTablesValid : Obligations.TbuildMakesTheTablesValid := by
  intro s hh
  refine exec_of_no_draws ?_ rfl
  rw [refusalOf_eq, haltedCheck, hh]
  rfl

/-! ## The substitutions -/

theorem sboxInv_sbox : ∀ v, sboxInv (sbox v) = v := by
  decide +kernel

theorem sbox_sboxInv : ∀ v, sbox (sboxInv v) = v := by
  decide +kernel

theorem byteAt_subBytes (a : Block) (j : Nat) (h : j < 16) : byteAt (subBytes a) j = sbox (byteAt a j) :=
  byteAt_blockOf _ j h

theorem byteAt_subBytesInv (a : Block) (j : Nat) (h : j < 16) : byteAt (subBytesInv a) j = sboxInv (byteAt a j) :=
  byteAt_blockOf _ j h

theorem subBytesInv_subBytes (a : Block) : subBytesInv (subBytes a) = a :=
  block_ext _ _ fun j hj => by rw [byteAt_subBytesInv _ j hj, byteAt_subBytes _ j hj, sboxInv_sbox]

theorem subBytes_subBytesInv (a : Block) : subBytes (subBytesInv a) = a :=
  block_ext _ _ fun j hj => by rw [byteAt_subBytes _ j hj, byteAt_subBytesInv _ j hj, sbox_sboxInv]

/-- Settles O27: the S-boxes on all 256 bytes, the block maps byte by byte. -/
theorem substitutionsAreInverse : Obligations.SubstitutionsAreInverse :=
  ⟨sboxInv_sbox, sbox_sboxInv, subBytesInv_subBytes, subBytes_subBytesInv, by decide +kernel⟩

/-! ## The masking laws -/

theorem maskOn_maskOff (alg : Alg) (v m : KeyBytes) : maskOn alg (maskOff alg v m) m = v := by
  rw [← maskOff_maskOn_comm, maskOff_maskOn]

/-- The zero key is stored as the mask itself. -/
theorem maskOn_zero_left (alg : Alg) (m : KeyBytes) : maskOn alg 0 m = m := by
  cases alg with
  | magma =>
    refine key_ext _ _ fun j hj => ?_
    simp only [maskOn]
    rw [keyWord_keyOfWords _ _ hj]
    simp [keyWord]
  | _ => simp [maskOn]

/-- Settles O39: the two masks of a value in re-masking commute. -/
theorem maskingLaws : Obligations.MaskingLaws := fun alg v m n =>
  ⟨maskOff_maskOn alg v m, maskOn_maskOff alg v m, maskOff_zero alg v,
    by rw [maskOff_maskOn_comm, maskOff_maskOn, maskOff_maskOn]⟩

/-! ## The integrity code in closed form -/

/-- The two bytes of a 16-bit word, low byte first. -/
def wordBytes (w : BitVec 16) : List Byte :=
  [w.extractLsb' 0 8, w.extractLsb' 8 8]

theorem toNat_wordBytes (w : BitVec 16) : (w.extractLsb' 0 8).toNat + 256 * (w.extractLsb' 8 8).toNat = w.toNat := by
  have := w.isLt
  simp only [BitVec.extractLsb'_toNat, Nat.shiftRight_eq_div_pow]
  omega

/-- The sum of the running sums: the first word is in all of them, the last in one. -/
def weightedSum (ws : List (BitVec 16)) : Nat :=
  (ws.zipIdx.map fun p => (ws.length - p.2) * p.1.toNat).sum

theorem weightedSum_cons (w : BitVec 16) (ws : List (BitVec 16)) :
    weightedSum (w :: ws) = (ws.length + 1) * w.toNat + weightedSum ws := by
  simp only [weightedSum, List.zipIdx_cons', List.map_cons, List.sum_cons, List.map_map, List.length_cons, Nat.sub_zero]
  congr 3
  funext p
  simp [Prod.map, Nat.add_sub_add_right]

theorem fletcherSums_flatMap (ws : List (BitVec 16)) (s1 s2 : Nat) (h1 : s1 < 65535) (h2 : s2 < 65535) :
    fletcherSums (ws.flatMap wordBytes) s1 s2 =
      ((s1 + (ws.map BitVec.toNat).sum) % 65535, (s2 + ws.length * s1 + weightedSum ws) % 65535) := by
  induction ws generalizing s1 s2 with
  | nil => simp [fletcherSums, weightedSum, Nat.mod_eq_of_lt h1, Nat.mod_eq_of_lt h2]
  | cons w ws ih =>
    have hlt : ∀ n, n % 65535 < 65535 := fun n => Nat.mod_lt n (by decide)
    rw [List.flatMap_cons, wordBytes, List.cons_append, List.cons_append, List.nil_append, fletcherSums, toNat_wordBytes,
      ih _ _ (hlt _) (hlt _), weightedSum_cons]
    refine Prod.ext ?_ ?_
    · simp [Nat.add_assoc]
    · have hmod : (s1 + w.toNat) % 65535 ≡ s1 + w.toNat [MOD 65535] := Nat.mod_modEq _ _
      have hsum := (((Nat.mod_modEq _ _).trans (hmod.add_left s2)).add (hmod.mul_left ws.length)).add_right
        (weightedSum ws)
      refine Eq.trans hsum (congrArg (fun n : Nat => n % 65535) ?_)
      rw [List.length_cons]
      ring

/-- Settles O38: both running sums in closed form, from zero. -/
theorem integrityCodeClosedForm : Obligations.IntegrityCodeClosedForm := by
  intro ws
  have h := fletcherSums_flatMap ws 0 0 (by decide) (by decide)
  rw [Nat.zero_add, Nat.zero_add, Nat.mul_zero, Nat.zero_add] at h
  change integrityCode (ws.flatMap wordBytes) = _
  rw [integrityCode, h]
  rfl

/-! ## The commands of the container -/

theorem algOfByte_eq_none_iff (b : Byte) : algOfByte b = none ↔ b ≠ 1 ∧ b ≠ 2 := by
  unfold algOfByte
  split
  · simp [*]
  · split
    · simp [*]
    · exact iff_of_true rfl ⟨‹_›, ‹_›⟩

/-- The algorithm of a KCREATE that passes its checks (R104). -/
theorem algCreated_of_passed {ks : SlotIx} {alg : Byte} {s : State} (h : refusalOf (.kcreate ks alg) s = none) :
    algCreated alg = if alg = 1 then .kuz else .magma := by
  have hne : algOfByte alg ≠ none :=
    not_of_passed (passed_of_refusalOf h) (e := .badAlgorithm ks) (by simp [commandChecks])
  rw [ne_eq, algOfByte_eq_none_iff] at hne
  by_cases h1 : alg = 1
  · simp [algCreated, algOfByte, h1]
  · have h2 : alg = 2 := by
      by_contra h2
      exact hne ⟨h1, h2⟩
    simp [algCreated, algOfByte, h2]

/-- Settles O31: the effect of KCREATE, its algorithm being one of two. -/
theorem kcreateMakesTheInstance : Obligations.KcreateMakesTheInstance := by
  intro ks alg s h hok
  refine ⟨?_, maskOn_zero_left⟩
  rw [exec_of_answered h hok, effectOf, algCreated_of_passed h]
  split <;> rfl

theorem toBytes_ofBytes_key {bs : List Byte} (h : bs.length = 32) : toBytes 32 (ofBytes 256 bs) = bs := by
  have := toBytes_ofBytes 0 bs
  rwa [h] at this

theorem length_bytesAt (s : State) (a n : Nat) : (bytesAt s a n).length = n := by simp [bytesAt]

/-- Settles O32: the bytes read are the bytes of the value stored, so their code is its code. -/
theorem kloadWritesTheKey : Obligations.KloadWritesTheKey := by
  intro ks src s h hread
  refine ⟨?_, maskOff_maskOn _ _ _⟩
  rw [exec_of_no_draws h rfl, effectOf, readBytes_of_readable _ _ _ hread, Res.bind, finish_ok, Slot.loaded, keyCode,
    toBytes_ofBytes_key (length_bytesAt _ _ _)]
  rfl

/-- Settles O34: KUNMASK's slot under the zero mask. -/
theorem kunmaskRestoresTheKey : Obligations.KunmaskRestoresTheKey := fun _ _ h =>
  ⟨exec_of_no_draws h rfl, maskOff_zero _ _⟩

/-- Settles O35: the effect of KSETICODE. -/
theorem kseticodeCertifiesTheKey : Obligations.KseticodeCertifiesTheKey := fun _ _ h => exec_of_no_draws h rfl

/-- Settles O36: an intact key passes each of the checks. -/
theorem kchkicodeOfAnIntactKey : Obligations.KchkicodeOfAnIntactKey := by
  intro ks s hh hk ha hi hc
  refine exec_of_no_draws (i := .kchkicode ks) ?_ rfl
  rw [refusalOf_eq, firstFailure_eq_none]
  simp [haltedCheck, commandChecks, slotCheck, emptyCheck, keyChecks, keyCode, hh, hk, ha, hi, hc]

/-- Settles O37: the effect of KDESTROY for either engine's arrays. -/
theorem kdestroyErasesTheSlot : Obligations.KdestroyErasesTheSlot := by
  intro ks s h hok
  rw [exec_of_answered h (by rwa [length_drawsOf_kdestroy]), effectOf, destroyedSlot]
  dsimp only
  split <;> rfl

/-! ## Re-masking -/

/-- The fields fresh masks leave: everything but the key, its mask, MASKED and the arrays. -/
theorem freshlyMasked_eq_with (s : State) (j : Nat) (sl : Slot) :
    freshlyMasked s j sl =
      { sl with
        raw := (freshlyMasked s j sl).raw, mask := (freshlyMasked s j sl).mask, masked := true,
        ek := (freshlyMasked s j sl).ek, em := (freshlyMasked s j sl).em, dk := (freshlyMasked s j sl).dk,
        dm := (freshlyMasked s j sl).dm, fk := (freshlyMasked s j sl).fk, fm := (freshlyMasked s j sl).fm,
        ik := (freshlyMasked s j sl).ik, im := (freshlyMasked s j sl).im } := by
  unfold freshlyMasked
  split <;> rfl

/-- What re-masking makes of a slot that holds a key: the conclusion of O33 for the slot. -/
def RemaskedWith (s : State) (sl sl' : Slot) : Prop :=
  sl'.trueKey = sl.trueKey ∧ sl'.mask = drawn s 0 32 ∧ sl'.raw = maskOn sl.alg sl.trueKey (drawn s 0 32) ∧
  sl' = { sl with
    raw := sl'.raw, mask := sl'.mask, masked := true,
    ek := sl'.ek, em := sl'.em, dk := sl'.dk, dm := sl'.dm, fk := sl'.fk, fm := sl'.fm, ik := sl'.ik, im := sl'.im } ∧
  (if sl.sched = true ∧ sl.alg = .kuz then
    sl'.em = drawBlocks (drawn s 1 160) ∧ sl'.dm = drawBlocks (drawn s 2 160) ∧
    xorBlocks sl'.ek sl'.em = xorBlocks sl.ek sl.em ∧ xorBlocks sl'.dk sl'.dm = xorBlocks sl.dk sl.dm
  else sl'.ek = sl.ek ∧ sl'.em = sl.em ∧ sl'.dk = sl.dk ∧ sl'.dm = sl.dm) ∧
  (if sl.sched = true ∧ sl.alg = .magma then
    sl'.fm = drawWords (drawn s 1 32) ∧ sl'.im = drawWords (drawn s 2 32) ∧
    subWords sl'.fk sl'.fm = subWords sl.fk sl.fm ∧ subWords sl'.ik sl'.im = subWords sl.ik sl.im
  else sl'.fk = sl.fk ∧ sl'.fm = sl.fm ∧ sl'.ik = sl.ik ∧ sl'.im = sl.im)

/-- A scheduled slot under fresh masks: the arrays of its engine are re-masked, the others stay. -/
theorem remaskedWith_freshlyMasked {compat : Bool} {s : State} {sl : Slot} (h : sl.Inv compat) (ha : sl.alg ≠ .empty)
    (hs : sl.sched = true) : RemaskedWith s sl (freshlyMasked s 0 sl) := by
  obtain ⟨⟨hek, hdk⟩, hfk, hik⟩ := unmaskedKeys_freshlyMasked h s 0
  refine ⟨trueKey_freshlyMasked s 0 sl, freshlyMasked_mask s 0 sl, freshlyMasked_raw s 0 sl,
    freshlyMasked_eq_with s 0 sl, ?_, ?_⟩
  · cases halg : sl.alg with
    | empty => exact absurd halg ha
    | kuz =>
      rw [if_pos ⟨hs, rfl⟩]
      exact ⟨by simp [freshlyMasked, halg], by simp [freshlyMasked, halg], hek, hdk⟩
    | magma => simp [freshlyMasked, halg]
  · cases halg : sl.alg with
    | empty => exact absurd halg ha
    | kuz => simp [freshlyMasked, halg]
    | magma =>
      rw [if_pos ⟨hs, rfl⟩]
      exact ⟨by simp [freshlyMasked, halg], by simp [freshlyMasked, halg], hfk, hik⟩

/-- A slot without a schedule has its key re-masked and nothing else. -/
theorem remaskedWith_remaskKey {compat : Bool} {s : State} {sl : Slot} (h : sl.Inv compat) (ha : sl.alg ≠ .empty)
    (hs : sl.sched = false) : RemaskedWith s sl (sl.remaskKey (drawn s 0 32)) := by
  refine ⟨trueKey_remaskKey h ha _, rfl, remaskKey_raw_of_inv h ha _, rfl, ?_, ?_⟩ <;> simp [hs]

theorem remaskedWith_remaskedSlot {compat : Bool} {s : State} {k : SlotIx} (h : (s.slotAt k).Inv compat)
    (ha : (s.slotAt k).alg ≠ .empty) : RemaskedWith s (s.slotAt k) (remaskedSlot s k) := by
  cases hs : (s.slotAt k).sched with
  | true =>
    rw [remaskedSlot_eq_freshlyMasked h hs ha]
    exact remaskedWith_freshlyMasked h ha hs
  | false =>
    rw [show remaskedSlot s k = (s.slotAt k).remaskKey (drawn s 0 32) by simp [remaskedSlot, hs]]
    exact remaskedWith_remaskKey h ha hs

/-- Settles O33: the three commands have one effect, and R32 gives the value an unmasked slot starts from. -/
theorem remaskingCommandsChangeOnlyMasks : Obligations.RemaskingCommandsChangeOnlyMasks := by
  intro i ks s hi hinv hp hok
  refine ⟨remaskedSlot s ks, ?_, ?_⟩
  · rw [exec_of_answered hp hok]
    rcases hi with rfl | rfl | rfl <;> rfl
  · have ha : (s.slotAt ks).alg ≠ .empty := by
      rcases hi with rfl | rfl | rfl <;>
        exact alg_ne_empty_of_passed (passed_of_refusalOf hp) (by simp [commandChecks])
    exact remaskedWith_remaskedSlot (hinv.slotAt ks) ha

end Sys2Proof.Machine
end

section
/-! SUPPORT. The Kuznechik pipelines without masks and tables: the sixteen lookups are the substitution and the linear map,
masked round keys act as unmasked ones, and decryption undoes encryption. -/

namespace Sys2Proof.Machine

/-! ## The inverse of L -/

theorem linear_linearInv (a : Block) : linear (linearInv a) = a := by
  have hinv : Function.LeftInverse stepR stepRInv := stepR_stepRInv
  rw [linear_eq_iterate, linearInv_eq_iterate]
  exact hinv.iterate 16 a

/-- The inverse of an additive map is additive. -/
theorem linearInv_xor (a b : Block) : linearInv (a ^^^ b) = linearInv a ^^^ linearInv b :=
  calc linearInv (a ^^^ b) = linearInv (linear (linearInv a) ^^^ linear (linearInv b)) := by
        rw [linear_linearInv, linear_linearInv]
    _ = linearInv a ^^^ linearInv b := by rw [← linear_xor, linearInv_linear]

/-! ## The table lookups (R91 to R93) -/

/-- The first n bytes of a block, the others 0. -/
def firstBytes (n : Nat) (f : Nat → Byte) : Block :=
  blockOf fun j => if j < n then f j else 0

theorem firstBytes_zero (f : Nat → Byte) : firstBytes 0 f = 0 := by
  simp [firstBytes, blockOf]

/-- One byte more is one unit block more. -/
theorem firstBytes_succ (n : Nat) (f : Nat → Byte) : firstBytes (n + 1) f = firstBytes n f ^^^ unitBlock n (f n) := by
  refine block_ext _ _ fun j hj => ?_
  simp only [byteAt_xor, firstBytes, unitBlock, byteAt_blockOf _ j hj]
  rcases Nat.lt_trichotomy j n with h | rfl | h
  · simp [h, Nat.lt_succ_of_lt h, Nat.ne_of_lt h]
  · simp
  · rw [if_neg (by omega), if_neg (by omega), if_neg (by omega)]
    rfl

theorem firstBytes_sixteen (f : Nat → Byte) : firstBytes 16 f = blockOf f :=
  block_ext _ _ fun j hj => by rw [firstBytes, byteAt_blockOf _ j hj, byteAt_blockOf _ j hj, if_pos hj]

/-- A sum of an additive map over unit blocks is the map of the block with those bytes. -/
theorem foldl_unitBlock (L : Block → Block) (hL : ∀ a b, L (a ^^^ b) = L a ^^^ L b) (f : Nat → Byte) :
    (List.range 16).foldl (fun z i => z ^^^ L (unitBlock i (f i))) 0 = L (blockOf f) := by
  have hzero : L 0 = 0 := by
    have h := hL 0 0
    rw [BitVec.xor_self] at h
    exact h.trans BitVec.xor_self
  have hrange : ∀ n, (List.range n).foldl (fun z i => z ^^^ L (unitBlock i (f i))) 0 = L (firstBytes n f) := by
    intro n
    induction n with
    | zero => rw [firstBytes_zero, hzero, List.range_zero, List.foldl_nil]
    | succ n ih => rw [List.range_succ, List.foldl_append, ih, List.foldl_cons, List.foldl_nil, firstBytes_succ, hL]
  rw [hrange, firstBytes_sixteen]

theorem lookupLS_eq (a : Block) : lookupLS a = linear (subBytes a) :=
  foldl_unitBlock linear linear_xor fun j => sbox (byteAt a j)

theorem lookupLSI_eq (a : Block) : lookupLSI a = linearInv (subBytesInv a) :=
  foldl_unitBlock linearInv linearInv_xor fun j => sboxInv (byteAt a j)

/-! ## The pipelines under unmasked round keys -/

/-- The decryption pipeline under unmasked round keys in the order i = 10 down to 1, begun after its substitution
(R136). -/
def kzInverse : List Block → Block → Block
  | [], a => a
  | [k], a => keyAdd k (subBytesInv a)
  | k :: k' :: rest, a => kzInverse (k' :: rest) (keyAdd k (linearInv (subBytesInv a)))

/-- Masked key, then mask, is the unmasked key. -/
theorem keyAdd_keyAdd (m k a : Block) : keyAdd m (keyAdd k a) = keyAdd (k ^^^ m) a :=
  BitVec.xor_assoc a k m

theorem kzEncRounds_eq (ps : List (Block × Block)) (a : Block) :
    kzEncRounds ps a = kzClassical (ps.map fun p => p.1 ^^^ p.2) a := by
  induction ps generalizing a with
  | nil => rfl
  | cons p ps ih =>
    cases ps with
    | nil => exact keyAdd_keyAdd _ _ _
    | cons q ps =>
      rw [kzEncRounds, ih, keyAdd_keyAdd, lookupLS_eq]
      rfl

theorem kzDecRounds_eq (ps : List (Block × Block)) (a : Block) :
    kzDecRounds ps a = kzInverse (ps.map fun p => p.1 ^^^ p.2) a := by
  induction ps generalizing a with
  | nil => rfl
  | cons p ps ih =>
    cases ps with
    | nil => exact keyAdd_keyAdd _ _ _
    | cons q ps =>
      rw [kzDecRounds, ih, keyAdd_keyAdd, lookupLSI_eq]
      rfl

theorem map_zip_eq_xorBlocks (v m : List Block) : ((v.zip m).map fun p => p.1 ^^^ p.2) = xorBlocks v m := by
  rw [xorBlocks, List.zip, List.map_zipWith]

theorem kzEncryptWith_eq (v m : List Block) (a : Block) : kzEncryptWith v m a = kzClassical (xorBlocks v m) a := by
  rw [kzEncryptWith, kzEncRounds_eq, map_zip_eq_xorBlocks]

theorem kzDecryptWith_eq (v m : List Block) (c : Block) :
    kzDecryptWith v m c = kzInverse (xorBlocks v m).reverse (subBytes c) := by
  rw [kzDecryptWith, kzDecRounds_eq, List.map_reverse, map_zip_eq_xorBlocks]

/-! ## Decryption undoes encryption -/

/-- The decryption rounds under all keys but the first leave, of the ciphertext, the first round's input after its
substitution: each undoes one round, the key moved through L_INV (R133). -/
theorem kzInverse_reverse_append (k : Block) (ks : List Block) (t : Block) (tail : List Block) (a : Block) :
    kzInverse ((ks.map linearInv).reverse ++ t :: tail) (subBytes (kzClassical (k :: ks) a)) =
      kzInverse (t :: tail) (subBytes (keyAdd k a)) := by
  induction ks generalizing k a t tail with
  | nil => rfl
  | cons k' ks ih =>
    have hround : keyAdd (linearInv k') (linearInv (keyAdd k' (linear (subBytes (keyAdd k a))))) =
        subBytes (keyAdd k a) := by
      rw [keyAdd, keyAdd, linearInv_xor, linearInv_linear, BitVec.xor_assoc, BitVec.xor_self, BitVec.xor_zero]
    rw [List.map_cons, List.reverse_cons, List.append_assoc, List.singleton_append, kzClassical, ih, kzInverse,
      subBytesInv_subBytes, hround]

/-- The classical decryption under the round keys of R131. -/
def kzClassicalInv (ks : List Block) (c : Block) : Block :=
  kzInverse (kzDecKeys ks).reverse (subBytes c)

theorem kzClassicalInv_kzClassical (k : Block) (ks : List Block) (a : Block) :
    kzClassicalInv (k :: ks) (kzClassical (k :: ks) a) = a := by
  have h := kzInverse_reverse_append k ks k [] a
  rw [kzClassicalInv, kzDecKeys, List.reverse_cons, h, kzInverse, subBytesInv_subBytes, keyAdd, keyAdd, BitVec.xor_assoc,
    BitVec.xor_self, BitVec.xor_zero]

/-- A map of blocks undone on the left is a bijection, so undone on the right as well. -/
theorem kzClassical_kzClassicalInv (k : Block) (ks : List Block) (c : Block) :
    kzClassical (k :: ks) (kzClassicalInv (k :: ks) c) = c := by
  have hleft : Function.LeftInverse (kzClassicalInv (k :: ks)) (kzClassical (k :: ks)) :=
    kzClassicalInv_kzClassical k ks
  exact (hleft.rightInverse_of_surjective (Finite.surjective_of_injective hleft.injective)) c

/-- The schedule of a key begins with its upper half (R131). -/
theorem exists_kzRoundKeys_eq_cons (key : KeyBytes) : ∃ k ks, kzRoundKeys key = k :: ks := ⟨_, _, rfl⟩

theorem kzClassicalInv_kzClassical_schedule (key : KeyBytes) (a : Block) :
    kzClassicalInv (kzRoundKeys key) (kzClassical (kzRoundKeys key) a) = a := by
  obtain ⟨k, ks, h⟩ := exists_kzRoundKeys_eq_cons key
  rw [h, kzClassicalInv_kzClassical]

theorem kzClassical_kzClassicalInv_schedule (key : KeyBytes) (c : Block) :
    kzClassical (kzRoundKeys key) (kzClassicalInv (kzRoundKeys key) c) = c := by
  obtain ⟨k, ks, h⟩ := exists_kzRoundKeys_eq_cons key
  rw [h, kzClassical_kzClassicalInv]

/-! ## The pipelines of a scheduled slot -/

theorem kzEncrypt_of_inv {compat : Bool} {sl : Slot} (h : sl.Inv compat) (ha : sl.alg = .kuz) (hs : sl.sched = true)
    (a : Block) : sl.kzEncrypt a = kzClassical (kzRoundKeys sl.trueKey) a := by
  obtain ⟨hek, -, -⟩ := h.kuz_schedule hs ha
  rw [Slot.kzEncrypt, kzEncryptWith_eq, hek]

theorem kzDecrypt_of_inv {compat : Bool} {sl : Slot} (h : sl.Inv compat) (ha : sl.alg = .kuz) (hs : sl.sched = true)
    (c : Block) : sl.kzDecrypt c = kzClassicalInv (kzRoundKeys sl.trueKey) c := by
  obtain ⟨-, hdk, -⟩ := h.kuz_schedule hs ha
  rw [Slot.kzDecrypt, kzDecryptWith_eq, hdk, kzClassicalInv]

end Sys2Proof.Machine
end

section
/-! PROOFS. The tables (R91 to R93), the Kuznechik pipelines (R135, R136, R140) and the Kuznechik commands (R138 to
R145), with the worked schedule and vector V1 (R148). -/

namespace Sys2Proof.Machine

/-- Settles O30: both table maps are additive in the unit blocks the tables hold the images of. -/
theorem tablesComputeTheRound : Obligations.TablesComputeTheRound := fun a => ⟨lookupLS_eq a, lookupLSI_eq a⟩

/-- Settles O44: both pipelines are functions of the unmasked round keys. -/
theorem kzOutputIgnoresTheMasks : Obligations.KzOutputIgnoresTheMasks := by
  intro v m v' m' a h
  rw [kzEncryptWith_eq, kzEncryptWith_eq, kzDecryptWith_eq, kzDecryptWith_eq, h]
  exact ⟨rfl, rfl⟩

/-- Settles O45: masks cancel, and the decryption rounds undo the encryption rounds one by one. -/
theorem kzDecryptInvertsEncrypt : Obligations.KzDecryptInvertsEncrypt := by
  intro key em dm a hem hdm keys
  have hlen : keys.length = 10 := length_kzRoundKeys key
  rw [kzEncryptWith_eq, kzDecryptWith_eq, xorBlocks_cancel _ _ (by rw [length_kzDecKeys, hlen, hdm]),
    xorBlocks_cancel _ _ (by rw [hlen, hem])]
  exact kzClassicalInv_kzClassical_schedule key a

/-! ## The worked schedule (R148) -/

theorem kzGroup_zero_worked :
    kzGroup 0 (0x8899aabbccddeeff0011223344556677, 0xfedcba98765432100123456789abcdef) =
      (0xdb31485315694343228d6aef8cc78c44, 0x3d4553d8e9cfec6815ebadc40a9ffd04) := by
  decide +kernel

theorem kzGroup_one_worked :
    kzGroup 1 (0xdb31485315694343228d6aef8cc78c44, 0x3d4553d8e9cfec6815ebadc40a9ffd04) =
      (0x57646468c44a5e28d3e59246f429f1ac, 0xbd079435165c6432b532e82834da581b) := by
  decide +kernel

theorem kzGroup_two_worked :
    kzGroup 2 (0x57646468c44a5e28d3e59246f429f1ac, 0xbd079435165c6432b532e82834da581b) =
      (0x51e640757e8745de705727265a0098b1, 0x5a7925017b9fdd3ed72a91a22286f984) := by
  decide +kernel

theorem kzGroup_three_worked :
    kzGroup 3 (0x51e640757e8745de705727265a0098b1, 0x5a7925017b9fdd3ed72a91a22286f984) =
      (0xbb44e25378c73123a5f32f73cdb6e517, 0x72e9dd7416bcf45b755dbaa88e4a4043) := by
  decide +kernel

/-- The ten encryption round keys of the standard's key. -/
def workedKeys : List Block :=
  [0x8899aabbccddeeff0011223344556677, 0xfedcba98765432100123456789abcdef, 0xdb31485315694343228d6aef8cc78c44,
    0x3d4553d8e9cfec6815ebadc40a9ffd04, 0x57646468c44a5e28d3e59246f429f1ac, 0xbd079435165c6432b532e82834da581b,
    0x51e640757e8745de705727265a0098b1, 0x5a7925017b9fdd3ed72a91a22286f984, 0xbb44e25378c73123a5f32f73cdb6e517,
    0x72e9dd7416bcf45b755dbaa88e4a4043]

/-- The schedule of the standard's key, group by group. -/
theorem kzRoundKeys_worked :
    kzRoundKeys 0x8899aabbccddeeff0011223344556677fedcba98765432100123456789abcdef = workedKeys := by
  have hhalves : kzRoundKeys 0x8899aabbccddeeff0011223344556677fedcba98765432100123456789abcdef =
      0x8899aabbccddeeff0011223344556677 :: 0xfedcba98765432100123456789abcdef ::
        kzGroupKeys 4 0 (0x8899aabbccddeeff0011223344556677, 0xfedcba98765432100123456789abcdef) := by
    rw [kzRoundKeys, show BitVec.extractLsb' 128 128 _ = 0x8899aabbccddeeff0011223344556677#128 from rfl,
      show BitVec.extractLsb' 0 128 _ = 0xfedcba98765432100123456789abcdef#128 from rfl]
    rfl
  rw [hhalves, kzGroupKeys, kzGroup_zero_worked, kzGroupKeys, kzGroup_one_worked, kzGroupKeys, kzGroup_two_worked,
    kzGroupKeys, kzGroup_three_worked]
  rfl

theorem kzDecKeys_worked : kzDecKeys workedKeys =
    [0x8899aabbccddeeff0011223344556677, 0x37edf507f2090627477c10b396f35a31, 0xd06f4094f860830093d749cd38939216,
      0xe60fce12efb4465985875cbea0201d6e, 0x0246e0941e5f725e8f57fa98a85835d7, 0xfb6f7bd4f50a029a654c028fda4f03a6,
      0x413d8ed7755fc2b684ac1d5fed62a238, 0x311fd692c433761e785581d108df5ef4, 0x69d180f40653b3cc3974647955e68328,
      0x5a6c415bef3ff261e070f0d7e87f3b02] := by
  decide +kernel

/-- Vector V1. -/
theorem kzClassical_worked :
    kzClassical workedKeys 0x1122334455667700ffeeddccbbaa9988 = 0x7f679d90bebc24305a468d42b9d4edcd := by
  decide +kernel

/-- Settles O43: a scheduled slot's unmasked arrays are the schedule of its true key. -/
theorem kzPipelineIsTheClassicalCipher : Obligations.KzPipelineIsTheClassicalCipher := by
  refine ⟨fun s k a h ha hs => kzEncrypt_of_inv (h.slotAt k) ha hs a, ?_⟩
  rw [kzRoundKeys_worked]
  exact kzClassical_worked

/-! ## The commands -/

/-- Settles O40: the effect of KZ.SCHED, masks that cancel, and the worked schedule. -/
theorem kzSchedStoresTheMaskedSchedule : Obligations.KzSchedStoresTheMaskedSchedule := by
  refine ⟨fun ks s h hok => ⟨exec_of_answered h hok, xorBlocks_cancel _ _ ?_, xorBlocks_cancel _ _ ?_⟩,
    kzRoundKeys_worked, kzDecKeys_worked⟩
  · rw [length_kzRoundKeys, length_drawBlocks]
  · rw [length_kzDecKeys, length_kzRoundKeys, length_drawBlocks]

/-- The checks of KZ.ENC and KZ.DEC in the words of R139. -/
theorem firstFailure_kzBlockChecks (ks : SlotIx) (src dst : Addr) (s : State) :
    firstFailure (kzBlockChecks ks src dst s) =
      firstFailure
        [(decide (s.cfg.nSlots ≤ ks.toNat), .slotRange ks),
         (decide ((s.slotAt ks).alg = .empty), .emptyData ks),
         (decide ((s.slotAt ks).alg ≠ .kuz), .wrongEngine ks),
         (!(s.slotAt ks).sched, .unscheduled ks),
         (decide (s.cfg.memSize < src.toNat + 16), .srcRange),
         (decide (s.cfg.memSize < dst.toNat + 16), .dstRange),
         (!s.tablesValid, .noTables),
         (!(s.slotAt ks).icodeSet, .noIcode ks),
         (decide (integrityCode (toBytes 32 (s.slotAt ks).trueKey) ≠ (s.slotAt ks).icode), .keyMismatch ks),
         (decide (kzRoundCode (xorBlocks (s.slotAt ks).ek (s.slotAt ks).em)
            (xorBlocks (s.slotAt ks).dk (s.slotAt ks).dm) ≠ (s.slotAt ks).rkicode), .roundKeyMismatch ks),
         (decide ((s.slotAt ks).res = 0), .dataResource ks)] := by
  have hlists : kzBlockChecks ks src dst s =
      [slotCheck s ks, emptyCheck s ks, engineCheck s ks .kuz, schedCheck s ks,
        (decide (s.cfg.memSize < src.toNat + 16), .srcRange), (decide (s.cfg.memSize < dst.toNat + 16), .dstRange),
        (!s.tablesValid, .noTables), (!(s.slotAt ks).icodeSet, .noIcode ks),
        (decide (keyCode (s.slotAt ks).trueKey ≠ (s.slotAt ks).icode), .keyMismatch ks), roundKeyCheck s ks,
        (decide ((s.slotAt ks).res = 0), .dataResource ks)] := by
    simp [kzBlockChecks, keyChecks, srcCheck, dstCheck, outsideMem, ← res_zero_eq_resourceShort]
  rw [hlists]
  by_cases ha : (s.slotAt ks).alg = .kuz
  · have hround : roundKeyCheck s ks =
        (decide (kzRoundCode (xorBlocks (s.slotAt ks).ek (s.slotAt ks).em)
          (xorBlocks (s.slotAt ks).dk (s.slotAt ks).dm) ≠ (s.slotAt ks).rkicode), .roundKeyMismatch ks) := by
      simp [roundKeyCheck, Slot.roundCode, ha]
    rw [hround]
    rfl
  · simp [firstFailure, slotCheck, emptyCheck, engineCheck, ha]

theorem firstFailure_of_not_halted {s : State} (hh : s.halted = false) (l : List (Bool × CoreError)) :
    firstFailure (haltedCheck s :: l) = firstFailure l := by
  rw [haltedCheck, hh]
  rfl

/-- The error of a refused command that is not HALTED. -/
theorem exec_of_refused_not_halted {i : Instr} {s : State} {e : CoreError} (hh : s.halted = false)
    (h : firstFailure (commandChecks s i) = some e) :
    exec i s = .next { s.endedWith (opcodeOf i) e.code e.sub e.slot with halted := decide (e = .noTables) } := by
  rw [exec_of_refused (by rw [refusalOf_eq, firstFailure_of_not_halted hh, h]), raise_eq, hh, Bool.false_or]

/-- Settles O41: both commands list the checks of R139. -/
theorem kzBlockChecksInOrder : Obligations.KzBlockChecksInOrder := by
  intro ks src dst s i e hi hh h
  rw [← firstFailure_kzBlockChecks] at h
  refine exec_of_refused_not_halted hh ?_
  rcases hi with rfl | rfl <;> exact h

/-- What a single-block command leaves that ends by storing the n bytes bs and taking one unit of resource (R141, R172). -/
theorem exists_next_of_storeSpend {i : Instr} {s u : State} {op : Byte} {ks : SlotIx} {dst : Addr} {n : Nat}
    {bs : List Byte} (hlen : bs.length = n)
    (h : exec i s = finish op (.ok () ((u.store dst.toNat bs).setSlot ks ((u.slotAt ks).spend 1)))) :
    ∃ t, exec i s = .next t ∧
      t = { u.ended op with
        mem := t.mem, slots := u.slots.set ks.toNat { u.slotAt ks with res := (u.slotAt ks).res - 1 } } ∧
      memRead t.mem dst.toNat n = .ok bs ∧ ∀ a, ¬ within a dst.toNat n → memByte t.mem a = memByte u.mem a := by
  subst hlen
  exact ⟨_, h, rfl, memRead_store u dst.toNat bs, memByte_store_of_not_within u dst.toNat bs⟩

theorem kzBlockBody_of_readable (f : Slot → Block → Block) {ks : SlotIx} {src dst : Addr} {s : State}
    (h : readable s src.toNat 16) :
    kzBlockBody f ks src dst s =
      .ok () ((s.store dst.toNat (toBytes 16 (f (s.slotAt ks) (ofBytes 128 (bytesAt s src.toNat 16))))).setSlot ks
        ((s.slotAt ks).spend 1)) := by
  rw [kzBlockBody, readBytes_of_readable _ _ _ h]
  rfl

/-- Settles O42: the effect of the two commands, their body being one. -/
theorem kzBlockCommandsWriteTheOutput : Obligations.KzBlockCommandsWriteTheOutput := by
  intro ks src dst s i out hi hp hread
  rcases hi with ⟨rfl, rfl⟩ | ⟨rfl, rfl⟩
  · exact exists_next_of_storeSpend (length_toBytes _ _)
      ((exec_of_no_draws hp rfl).trans (congrArg _ (kzBlockBody_of_readable Slot.kzEncrypt hread)))
  · exact exists_next_of_storeSpend (length_toBytes _ _)
      ((exec_of_no_draws hp rfl).trans (congrArg _ (kzBlockBody_of_readable Slot.kzDecrypt hread)))

/-- Settles O46: the effect of KZ.DELKEYS. -/
theorem kzDelkeysOverwritesTheSchedule : Obligations.KzDelkeysOverwritesTheSchedule := fun _ _ h hok =>
  exec_of_answered h hok

end Sys2Proof.Machine
end

section
/-! SUPPORT. The Magma rounds without masks, their inversion, and the words and blocks of the two byte-order conventions by
bytes. -/

namespace Sys2Proof.Machine

/-! ## Words and blocks by bytes -/

/-- Two strings of whole bytes with the same bytes are the same. -/
theorem ext_byteAt {n : Nat} {a b : BitVec (8 * n)} (h : ∀ j < n, byteAt a j = byteAt b j) : a = b := by
  apply BitVec.eq_of_getLsbD_eq
  intro i hi
  have hbyte := congrArg (fun v : Byte => v.getLsbD (i % 8)) (h (i / 8) (by omega))
  simp only [getLsbD_byteAt _ _ _ (Nat.mod_lt i (by decide : 0 < 8))] at hbyte
  rwa [Nat.div_add_mod] at hbyte

/-- A word of four bytes. -/
theorem byteAt_four_bytes (b3 b2 b1 b0 : Byte) :
    byteAt (b3 ++ b2 ++ b1 ++ b0) 0 = b0 ∧ byteAt (b3 ++ b2 ++ b1 ++ b0) 1 = b1 ∧
      byteAt (b3 ++ b2 ++ b1 ++ b0) 2 = b2 ∧ byteAt (b3 ++ b2 ++ b1 ++ b0) 3 = b3 := by
  refine ⟨?_, ?_, ?_, ?_⟩
  · rw [byteAt_append_low _ _ 0 (by decide), byteAt_byte]
  · rw [byteAt_append_high _ _ 1 0 (by decide), byteAt_append_low _ _ 0 (by decide), byteAt_byte]
  · rw [byteAt_append_high _ _ 2 1 (by decide), byteAt_append_high _ _ 1 0 (by decide),
      byteAt_append_low _ _ 0 (by decide), byteAt_byte]
  · rw [byteAt_append_high _ _ 3 2 (by decide), byteAt_append_high _ _ 2 1 (by decide),
      byteAt_append_high _ _ 1 0 (by decide), byteAt_byte]

theorem byteAt_le32At (v : BitVec n) (i j : Nat) (h : j < 4) : byteAt (le32At v i) j = byteAt v (i + j) := by
  obtain ⟨h0, h1, h2, h3⟩ := byteAt_four_bytes (byteAt v (i + 3)) (byteAt v (i + 2)) (byteAt v (i + 1)) (byteAt v i)
  interval_cases j
  · exact h0
  · exact h1
  · exact h2
  · exact h3

theorem byteAt_be32At (v : BitVec n) (i j : Nat) (h : j < 4) : byteAt (be32At v i) j = byteAt v (i + (3 - j)) := by
  obtain ⟨h0, h1, h2, h3⟩ := byteAt_four_bytes (byteAt v i) (byteAt v (i + 1)) (byteAt v (i + 2)) (byteAt v (i + 3))
  interval_cases j
  · exact h0
  · exact h1
  · exact h2
  · exact h3

theorem byteAt_rev32 (w : Word) (j : Nat) (h : j < 4) : byteAt (rev32 w) j = byteAt w (3 - j) := by
  rw [rev32, byteAt_be32At _ _ _ h, Nat.zero_add]

/-- The bytes of a block of two words. -/
theorem byteAt_two_words (x y : Word) (j : Nat) (h : j < 8) :
    byteAt (x ++ y) j = if j < 4 then byteAt y j else byteAt x (j - 4) := by
  split
  · exact byteAt_append_low _ _ _ (by omega)
  · exact byteAt_append_high _ _ _ _ (by omega)

theorem mgBlock_mgHalves (compat : Bool) (b : HalfBlock) : mgBlock compat (mgHalves compat b) = b := by
  refine ext_byteAt (n := 8) fun j hj => ?_
  cases compat with
  | false =>
    simp only [mgBlock, mgHalves, Bool.false_eq_true, if_false]
    rw [byteAt_two_words _ _ j hj]
    split
    · rw [byteAt_le32At _ _ _ (by omega), Nat.zero_add]
    · rw [byteAt_le32At _ _ _ (by omega), Nat.add_sub_cancel' (by omega)]
  | true =>
    simp only [mgBlock, mgHalves, if_true]
    rw [byteAt_two_words _ _ j hj]
    split
    · rw [byteAt_rev32 _ _ (by omega), byteAt_be32At _ _ _ (by omega)]
      congr 1
      omega
    · rw [byteAt_rev32 _ _ (by omega), byteAt_be32At _ _ _ (by omega)]
      congr 1
      omega

theorem mgHalves_mgBlock (compat : Bool) (p : Word × Word) : mgHalves compat (mgBlock compat p) = p := by
  have hlow : ∀ x y : Word, ∀ j < 4, byteAt (x ++ y) j = byteAt y j := fun x y j hj => by
    rw [byteAt_two_words x y j (by omega), if_pos hj]
  have hhigh : ∀ x y : Word, ∀ j < 4, byteAt (x ++ y) (4 + j) = byteAt x j := fun x y j hj => by
    rw [byteAt_two_words x y _ (by omega), if_neg (by omega), Nat.add_sub_cancel_left]
  cases compat with
  | false =>
    simp only [mgBlock, mgHalves, Bool.false_eq_true, if_false]
    refine Prod.ext (ext_byteAt (n := 4) fun j hj => ?_) (ext_byteAt (n := 4) fun j hj => ?_)
    · rw [byteAt_le32At _ _ _ hj, hhigh _ _ j hj]
    · rw [byteAt_le32At _ _ _ hj, Nat.zero_add, hlow _ _ j hj]
  | true =>
    simp only [mgBlock, mgHalves, if_true]
    refine Prod.ext (ext_byteAt (n := 4) fun j hj => ?_) (ext_byteAt (n := 4) fun j hj => ?_)
    · rw [byteAt_be32At _ _ _ hj, Nat.zero_add, hlow _ _ _ (by omega), byteAt_rev32 _ _ (by omega),
        show 3 - (3 - j) = j by omega]
    · rw [byteAt_be32At _ _ _ hj, hhigh _ _ _ (by omega), byteAt_rev32 _ _ (by omega), show 3 - (3 - j) = j by omega]

/-! ## The reversal of a string -/

/-- Byte j of a string reversed is byte n - 1 - j of the string. -/
theorem byteAt_reversed (n : Nat) (v : BitVec m) (j : Nat) (h : j < n) :
    byteAt (ofBytes (8 * n) (toBytes n v).reverse) j = byteAt v (n - 1 - j) := by
  rw [byteAt_ofBytes _ _ _ (by simpa [length_toBytes] using h) (by omega), List.getElem_reverse]
  simp [toBytes]

theorem mgKeyWords_reversed (key : KeyBytes) :
    mgKeyWords true (ofBytes 256 (toBytes 32 key).reverse) = mgKeyWords false key := by
  refine List.map_congr_left fun i hi => ?_
  have hlt : i < 8 := List.mem_range.mp hi
  simp only [Bool.false_eq_true, if_false, if_true]
  refine ext_byteAt (n := 4) fun j hj => ?_
  rw [byteAt_be32At _ _ _ hj, byteAt_le32At _ _ _ hj]
  exact (byteAt_reversed 32 key _ (by omega)).trans (congrArg (byteAt key) (by omega))

theorem mgHalves_reversed (b : HalfBlock) : mgHalves true (ofBytes 64 (toBytes 8 b).reverse) = mgHalves false b := by
  simp only [mgHalves, Bool.false_eq_true, if_false, if_true]
  refine Prod.ext (ext_byteAt (n := 4) fun j hj => ?_) (ext_byteAt (n := 4) fun j hj => ?_)
  · rw [byteAt_be32At _ _ _ hj, byteAt_le32At _ _ _ hj]
    exact (byteAt_reversed 8 b _ (by omega)).trans (congrArg (byteAt b) (by omega))
  · rw [byteAt_be32At _ _ _ hj, byteAt_le32At _ _ _ hj]
    exact (byteAt_reversed 8 b _ (by omega)).trans (congrArg (byteAt b) (by omega))

theorem mgBlock_reversed (p : Word × Word) : mgBlock true p = ofBytes 64 (toBytes 8 (mgBlock false p)).reverse := by
  refine ext_byteAt (n := 8) fun j hj => ?_
  refine Eq.trans ?_ (byteAt_reversed 8 (mgBlock false p) j hj).symm
  simp only [mgBlock, Bool.false_eq_true, if_false, if_true]
  rw [byteAt_two_words _ _ _ hj, byteAt_two_words _ _ _ (by omega)]
  split
  · rw [if_neg (by omega), byteAt_rev32 _ _ (by omega)]
    congr 1
    omega
  · rw [if_pos (by omega), byteAt_rev32 _ _ (by omega)]
    congr 1
    omega

/-! ## The Feistel rounds -/

/-- One round with the swap that follows it (R164). -/
def mgRound (keys : List Word) (p : Word × Word) (j : Nat) : Word × Word :=
  (p.2, mgG (wordAt keys j) p.2 ^^^ p.1)

/-- The classical cipher is its rounds with the last swap taken back. -/
theorem mgClassical_eq_foldl (keys : List Word) {ord : List Nat} (h : ord ≠ []) (p : Word × Word) :
    mgClassical keys ord p = (ord.foldl (mgRound keys) p).swap := by
  induction ord generalizing p with
  | nil => exact absurd rfl h
  | cons j rest ih =>
    cases rest with
    | nil => rfl
    | cons j' rest => exact ih nofun _

/-- A round undoes itself on swapped halves. -/
theorem mgRound_swap_mgRound (keys : List Word) (p : Word × Word) (j : Nat) :
    mgRound keys (mgRound keys p j).swap j = p.swap := by
  simp only [mgRound, Prod.swap, ← BitVec.xor_assoc, BitVec.xor_self, BitVec.zero_xor]

theorem foldl_mgRound_reverse (keys : List Word) (ord : List Nat) (p : Word × Word) :
    ord.reverse.foldl (mgRound keys) (ord.foldl (mgRound keys) p).swap = p.swap := by
  induction ord generalizing p with
  | nil => rfl
  | cons j rest ih =>
    simp only [List.reverse_cons, List.foldl_append, List.foldl_cons, List.foldl_nil, ih, mgRound_swap_mgRound]

/-- The rounds in reverse order undo the cipher. -/
theorem mgClassical_reverse (keys : List Word) {ord : List Nat} (h : ord ≠ []) (p : Word × Word) :
    mgClassical keys ord.reverse (mgClassical keys ord p) = p := by
  rw [mgClassical_eq_foldl _ (by simpa using h), mgClassical_eq_foldl _ h, foldl_mgRound_reverse, Prod.swap_swap]

theorem reverse_encOrder : encOrder.reverse = decOrder := rfl

theorem reverse_decOrder : decOrder.reverse = encOrder := rfl

/-! ## The masked rounds -/

theorem addWords_subWords (v m : List Word) (h : v.length ≤ m.length) : addWords (subWords v m) m = v := by
  rw [← subWords_addWords_comm, subWords_addWords v m h]

theorem wordAt_zipWith (f : Word → Word → Word) {v m : List Word} {j : Nat} (hv : v.length = 8) (hm : m.length = 8)
    (hpos : 1 ≤ j) (hle : j ≤ 8) : wordAt (List.zipWith f v m) j = f (wordAt v j) (wordAt m j) := by
  have hlt : j - 1 < 8 := by omega
  simp [wordAt, List.getD_eq_getElem?_getD, hv, hm, hlt]

theorem wordAt_negWords {v : List Word} {j : Nat} (hv : v.length = 8) (hpos : 1 ≤ j) (hle : j ≤ 8) :
    wordAt (negWords v) j = 0 - wordAt v j := by
  have hlt : j - 1 < 8 := by omega
  simp [wordAt, negWords, List.getD_eq_getElem?_getD, hv, hlt]

/-- The arrays of a slot that holds the round keys under the masks fm and im (R166). -/
def maskedArrays (keys fm im : List Word) : MagmaArrays :=
  ⟨addWords keys fm, fm, addWords (negWords keys) im, im⟩

/-- In either branch of R170 the masks cancel and the round key is added. -/
theorem mgMaskedSum_maskedArrays {keys fm im : List Word} (hk : keys.length = 8) (hf : fm.length = 8)
    (hi : im.length = 8) {j : Nat} (hpos : 1 ≤ j) (hle : j ≤ 8) (rho a0 : Word) :
    mgMaskedSum (maskedArrays keys fm im) j rho a0 = a0 + wordAt keys j := by
  unfold mgMaskedSum maskedArrays addWords
  dsimp only
  split
  · rw [wordAt_zipWith _ (by rw [length_negWords, hk]) hi hpos hle, wordAt_negWords hk hpos hle]
    bv_omega
  · rw [wordAt_zipWith _ hk hf hpos hle]
    bv_omega

/-- The masked rounds are the classical ones, whatever the draws. -/
theorem mgRounds_maskedArrays {keys fm im : List Word} (hk : keys.length = 8) (hf : fm.length = 8)
    (hi : im.length = 8) {ord : List Nat} (hord : ∀ j ∈ ord, 1 ≤ j ∧ j ≤ 8) {rho : List Word}
    (hlen : ord.length = rho.length) (p : Word × Word) :
    mgRounds (maskedArrays keys fm im) (ord.zip rho) p = mgClassical keys ord p := by
  have hround : ∀ j ∈ ord, ∀ r a0 : Word,
      rol11 (mgSubst (mgMaskedSum (maskedArrays keys fm im) j r a0)) = mgG (wordAt keys j) a0 := fun j hj r a0 => by
    rw [mgMaskedSum_maskedArrays hk hf hi (hord j hj).1 (hord j hj).2, mgG]
  induction ord generalizing rho p with
  | nil => rfl
  | cons j rest ih =>
    obtain _ | ⟨r, rho⟩ := rho
    · simp at hlen
    have hj := hround j (.head _) r p.2
    have htail := ih (fun i hi => hord i (.tail _ hi)) (rho := rho) (by simpa using hlen)
    obtain _ | ⟨j', rest⟩ := rest
    · rw [List.zip_cons_cons, List.zip_nil_left, mgRounds, mgClassical, hj]
    · obtain _ | ⟨r', rho⟩ := rho
      · simp at hlen
      rw [List.zip_cons_cons, List.zip_cons_cons, mgRounds, mgClassical, hj]
      exact htail _ fun i hi => hround i (.tail _ hi)

/-- Both orders of R164 name the keys 1 to 8, 32 times in all. -/
theorem orders_wellFormed {ord : List Nat} (h : ord = encOrder ∨ ord = decOrder) :
    (∀ j ∈ ord, 1 ≤ j ∧ j ≤ 8) ∧ ord.length = 32 ∧ ord ≠ [] := by
  rcases h with rfl | rfl <;> decide

/-- The classical cipher on a block under a byte-order convention. -/
def mgCipher (compat : Bool) (keys : List Word) (ord : List Nat) (b : HalfBlock) : HalfBlock :=
  mgBlock compat (mgClassical keys ord (mgHalves compat b))

theorem mgCryptWith_maskedArrays (compat : Bool) {keys fm im rho : List Word} {ord : List Nat} (b : HalfBlock)
    (hk : keys.length = 8) (hf : fm.length = 8) (hi : im.length = 8) (hr : rho.length = 32)
    (hord : ord = encOrder ∨ ord = decOrder) :
    mgCryptWith compat (maskedArrays keys fm im) ord rho b = mgCipher compat keys ord b := by
  obtain ⟨hrange, hlen, -⟩ := orders_wellFormed hord
  rw [mgCryptWith, mgRounds_maskedArrays hk hf hi hrange (hlen.trans hr.symm), mgCipher]

theorem mgCipher_reverse (compat : Bool) (keys : List Word) {ord : List Nat} (h : ord ≠ []) (b : HalfBlock) :
    mgCipher compat keys ord.reverse (mgCipher compat keys ord b) = b := by
  rw [mgCipher, mgCipher, mgHalves_mgBlock, mgClassical_reverse _ h, mgBlock_mgHalves]

theorem mgCipher_dec_enc (compat : Bool) (keys : List Word) (b : HalfBlock) :
    mgCipher compat keys decOrder (mgCipher compat keys encOrder b) = b :=
  reverse_encOrder ▸ mgCipher_reverse compat keys (by decide) b

theorem mgCipher_enc_dec (compat : Bool) (keys : List Word) (b : HalfBlock) :
    mgCipher compat keys encOrder (mgCipher compat keys decOrder b) = b :=
  reverse_decOrder ▸ mgCipher_reverse compat keys (by decide) b

/-- The arrays of a scheduled Magma slot are the words of its true key under its masks (R32 item 5). -/
theorem magmaArrays_of_inv {compat : Bool} {sl : Slot} (h : sl.Inv compat) (ha : sl.alg = .magma)
    (hs : sl.sched = true) : sl.magmaArrays = maskedArrays (mgKeyWords compat sl.trueKey) sl.fm sl.im := by
  obtain ⟨hfk, hik, -⟩ := h.magma_schedule hs ha
  obtain ⟨hfkl, hfml, hikl, himl⟩ := h.magma_sizes
  rw [maskedArrays, ← hik, ← hfk, addWords_subWords _ _ (by omega), addWords_subWords _ _ (by omega)]
  rfl

/-- The masked cipher of a scheduled Magma slot is the classical one under its true key (R170). -/
theorem mgCryptWith_of_inv {compat : Bool} {sl : Slot} (h : sl.Inv compat) (ha : sl.alg = .magma)
    (hs : sl.sched = true) {ord : List Nat} (hord : ord = encOrder ∨ ord = decOrder) {rho : List Word}
    (hr : rho.length = 32) (b : HalfBlock) :
    mgCryptWith compat sl.magmaArrays ord rho b = mgCipher compat (mgKeyWords compat sl.trueKey) ord b := by
  obtain ⟨-, hfml, -, himl⟩ := h.magma_sizes
  rw [magmaArrays_of_inv h ha hs, mgCryptWith_maskedArrays compat b (length_mgKeyWords _ _) hfml himl hr hord]

end Sys2Proof.Machine
end

section
/-! PROOFS. The Magma cipher (R160 to R170, R178) and the Magma commands (R168 to R176). -/

namespace Sys2Proof.Machine

/-- Settles O50: the masks cancel in every round; the worked values are computed. -/
theorem mgMaskedRoundsAreTheClassicalCipher : Obligations.MgMaskedRoundsAreTheClassicalCipher :=
  ⟨fun compat _ _ _ _ _ b hk hf hi hr hord => mgCryptWith_maskedArrays compat b hk hf hi hr hord, by decide +kernel⟩

/-- Settles O51: the decryption order is the encryption order reversed, and a Feistel round undoes itself. -/
theorem mgDecryptInvertsEncrypt : Obligations.MgDecryptInvertsEncrypt := by
  intro compat keys fm im rho rho' b hk hf hi hr hr'
  have henc := mgCryptWith_maskedArrays compat b hk hf hi hr (.inl rfl)
  have hdec := fun c => mgCryptWith_maskedArrays compat c hk hf hi hr' (.inr rfl)
  exact (hdec _).trans ((congrArg _ henc).trans (mgCipher_dec_enc compat keys b))

/-- Settles O52: reversal turns the words, the halves and the block of one convention into those of the other. -/
theorem mgConventionsAreByteReversals : Obligations.MgConventionsAreByteReversals := by
  intro key b ord
  rw [mgKeyWords_reversed, mgHalves_reversed, mgBlock_reversed]

/-- Settles O47: the effect of MG.SCHED, masks that cancel, and the worked words. -/
theorem mgSchedStoresTheMaskedSchedule : Obligations.MgSchedStoresTheMaskedSchedule := by
  refine ⟨fun ks s h hok => ⟨exec_of_answered h hok, subWords_addWords _ _ ?_, subWords_addWords _ _ ?_⟩,
    by decide +kernel⟩
  · rw [length_mgKeyWords, length_drawWords]
  · rw [length_negWords, length_mgKeyWords, length_drawWords]

/-- The checks of MG.ENC and MG.DEC in the words of R171. -/
theorem firstFailure_mgBlockChecks (ks : SlotIx) (src dst : Addr) (s : State) :
    firstFailure (mgBlockChecks ks src dst s) =
      firstFailure
        [(decide (s.cfg.nSlots ≤ ks.toNat), .slotRange ks),
         (decide ((s.slotAt ks).alg = .empty), .emptyData ks),
         (decide ((s.slotAt ks).alg ≠ .magma), .wrongEngine ks),
         (!(s.slotAt ks).sched, .unscheduled ks),
         (decide (s.cfg.memSize < src.toNat + 8), .srcRange),
         (decide (s.cfg.memSize < dst.toNat + 8), .dstRange),
         (!(s.slotAt ks).icodeSet, .noIcode ks),
         (decide (integrityCode (toBytes 32 (s.slotAt ks).trueKey) ≠ (s.slotAt ks).icode), .keyMismatch ks),
         (decide (mgRoundCode (subWords (s.slotAt ks).fk (s.slotAt ks).fm)
            (subWords (s.slotAt ks).ik (s.slotAt ks).im) ≠ (s.slotAt ks).rkicode), .roundKeyMismatch ks),
         (decide ((s.slotAt ks).res = 0), .dataResource ks)] := by
  have hlists : mgBlockChecks ks src dst s =
      [slotCheck s ks, emptyCheck s ks, engineCheck s ks .magma, schedCheck s ks,
        (decide (s.cfg.memSize < src.toNat + 8), .srcRange), (decide (s.cfg.memSize < dst.toNat + 8), .dstRange),
        (!(s.slotAt ks).icodeSet, .noIcode ks),
        (decide (keyCode (s.slotAt ks).trueKey ≠ (s.slotAt ks).icode), .keyMismatch ks), roundKeyCheck s ks,
        (decide ((s.slotAt ks).res = 0), .dataResource ks)] := by
    simp [mgBlockChecks, keyChecks, srcCheck, dstCheck, outsideMem, ← res_zero_eq_resourceShort]
  rw [hlists]
  by_cases ha : (s.slotAt ks).alg = .magma
  · have hround : roundKeyCheck s ks =
        (decide (mgRoundCode (subWords (s.slotAt ks).fk (s.slotAt ks).fm)
          (subWords (s.slotAt ks).ik (s.slotAt ks).im) ≠ (s.slotAt ks).rkicode), .roundKeyMismatch ks) := by
      simp [roundKeyCheck, Slot.roundCode, ha]
    rw [hround]
    rfl
  · simp [firstFailure, slotCheck, emptyCheck, engineCheck, ha]

/-- No check of MG.ENC or MG.DEC looks at the tables. -/
theorem noTables_not_mem_mgBlockChecks {ks : SlotIx} {src dst : Addr} {s : State} {e : CoreError}
    (h : firstFailure (mgBlockChecks ks src dst s) = some e) : e ≠ .noTables := by
  rintro rfl
  obtain ⟨p, q, hl, -⟩ := (firstFailure_eq_some _ _).1 h
  have hmem : (true, CoreError.noTables) ∈ mgBlockChecks ks src dst s := hl ▸ by simp
  simp [mgBlockChecks, keyChecks, slotCheck, emptyCheck, engineCheck, schedCheck, srcCheck, dstCheck,
    roundKeyCheck] at hmem

/-- Settles O48: both commands list the checks of R171. -/
theorem mgBlockChecksInOrder : Obligations.MgBlockChecksInOrder := by
  intro ks src dst s i e hi hh h
  rw [← firstFailure_mgBlockChecks] at h
  have hpassed : refusalOf i s = some e := by
    rw [refusalOf_eq, firstFailure_of_not_halted hh]
    rcases hi with rfl | rfl <;> exact h
  rw [exec_of_refused hpassed, raise_eq_endedWith _ (noTables_not_mem_mgBlockChecks h)]

theorem mgBlockEffect_of_readable (ord : List Nat) {ks : SlotIx} {src dst : Addr} {s : State}
    (h : readable s src.toNat 8) :
    mgBlockEffect ord ks src dst s =
      .ok () (((afterAnswers s 32).store dst.toNat
        (toBytes 8 (mgDrawnOutput ord s ks (ofBytes 64 (bytesAt s src.toNat 8))))).setSlot ks
        (((afterAnswers s 32).slotAt ks).spend 1)) := by
  rw [mgBlockEffect, readBytes_of_readable _ _ (afterAnswers s 32) h]
  rfl

/-- Settles O49: the effect of the two commands after their 32 draws. -/
theorem mgBlockCommandsWriteTheOutput : Obligations.MgBlockCommandsWriteTheOutput := by
  intro ks src dst s i ord hi hp hok hread
  rcases hi with ⟨rfl, rfl⟩ | ⟨rfl, rfl⟩
  · exact exists_next_of_storeSpend (u := afterAnswers s 32) (length_toBytes _ _)
      ((exec_of_answered hp hok).trans (congrArg _ (mgBlockEffect_of_readable encOrder hread)))
  · exact exists_next_of_storeSpend (u := afterAnswers s 32) (length_toBytes _ _)
      ((exec_of_answered hp hok).trans (congrArg _ (mgBlockEffect_of_readable decOrder hread)))

/-- Settles O53: the effect of MG.DELKEYS. -/
theorem mgDelkeysOverwritesTheSchedule : Obligations.MgDelkeysOverwritesTheSchedule := fun _ _ h hok =>
  exec_of_answered h hok

end Sys2Proof.Machine
end

section
/-! PROOFS. The checks of the XTS commands in their order (R197). -/

namespace Sys2Proof.Machine

/-- What follows a check that fails does not matter. -/
theorem firstFailure_append_cons_congr (pre : List (Bool × CoreError)) {b : Bool} {e : CoreError}
    {post post' : List (Bool × CoreError)} (h : b = false → firstFailure post = firstFailure post') :
    firstFailure (pre ++ (b, e) :: post) = firstFailure (pre ++ (b, e) :: post') := by
  rw [firstFailure_append, firstFailure_append]
  cases b with
  | true => rfl
  | false => rw [firstFailure, firstFailure, h rfl]

/-- The checks of an XTS command in the words of R197. An empty IV would pass the range check, but its length does not
pass the check before it. -/
theorem firstFailure_xtsChecks (o : XtsOperands) (s : State) :
    firstFailure (xtsChecks o s) =
      firstFailure
        [(decide (s.cfg.nSlots ≤ o.ks.toNat), .slotRange o.ks),
         (decide (s.cfg.nSlots ≤ o.kt.toNat), .slotRange o.kt),
         (decide ((s.slotAt o.ks).alg = .empty), .emptyData o.ks),
         (decide ((s.slotAt o.kt).alg = .empty), .emptyTweak o.kt),
         (!(s.slotAt o.ks).sched, .unscheduled o.ks),
         (!(s.slotAt o.kt).sched, .unscheduled o.kt),
         (decide (o.ks = o.kt), .sameSlot o.ks),
         (decide (o.len.toNat % sizeOfSlotBlock s o.ks ≠ 0), .lenNotMultiple),
         (decide (o.ivlen = 0 ∨ 16 < o.ivlen.toNat), .ivLength),
         (decide (0 < o.len.toNat ∧ s.cfg.memSize < o.src.toNat + o.len.toNat), .srcRange),
         (decide (0 < o.len.toNat ∧ s.cfg.memSize < o.dst.toNat + o.len.toNat), .dstRange),
         (decide (s.cfg.memSize < o.iv.toNat + o.ivlen.toNat), .ivRange),
         (decide (((s.slotAt o.ks).alg = .kuz ∨ (s.slotAt o.kt).alg = .kuz) ∧ s.tablesValid = false), .noTables),
         (!(s.slotAt o.ks).icodeSet, .noIcode o.ks),
         (decide (keyCode (s.slotAt o.ks).trueKey ≠ (s.slotAt o.ks).icode), .keyMismatch o.ks),
         (decide ((s.slotAt o.ks).roundCode ≠ (s.slotAt o.ks).rkicode), .roundKeyMismatch o.ks),
         (!(s.slotAt o.kt).icodeSet, .noIcode o.kt),
         (decide (keyCode (s.slotAt o.kt).trueKey ≠ (s.slotAt o.kt).icode), .keyMismatch o.kt),
         (decide ((s.slotAt o.kt).roundCode ≠ (s.slotAt o.kt).rkicode), .roundKeyMismatch o.kt),
         (decide ((s.slotAt o.ks).res.toNat < o.len.toNat / sizeOfSlotBlock s o.ks), .dataResource o.ks),
         (decide ((s.slotAt o.kt).res.toNat < tweakCost s o.kt), .tweakResource o.kt)] := by
  have hor : (decide (o.ivlen = 0 ∨ 16 < o.ivlen.toNat)) = (decide (o.ivlen = 0) || decide (16 < o.ivlen.toNat)) :=
    Bool.decide_or _ _
  rw [hor, sizeOfSlotBlock_eq, tweakCost_eq]
  refine firstFailure_append_cons_congr
    [slotCheck s o.ks, slotCheck s o.kt, emptyCheck s o.ks, (decide ((s.slotAt o.kt).alg = .empty), .emptyTweak o.kt),
      schedCheck s o.ks, schedCheck s o.kt, (decide (o.ks = o.kt), .sameSlot o.ks),
      (decide (o.len.toNat % xtsBlockSize o s ≠ 0), .lenNotMultiple)] fun hiv => ?_
  have hpos : 0 < o.ivlen.toNat := by
    simp only [Bool.or_eq_false_iff, decide_eq_false_iff_not] at hiv
    exact Nat.pos_of_ne_zero fun h => hiv.1 (BitVec.eq_of_toNat_eq h)
  have htab : (!s.tablesValid) = decide (s.tablesValid = false) := by cases s.tablesValid <;> rfl
  congr 1
  simp only [srcCheck, dstCheck, ivCheck, outsideMem, decide_eq_true hpos, Bool.true_and, Bool.decide_and,
    Bool.decide_or, htab]
  rfl

/-- The XTS command of a direction. -/
def xtsInstr (dir : Direction) (o : XtsOperands) : Instr :=
  match dir with
  | .encrypt => .xtsEnc o.ks o.kt o.src o.dst o.len o.iv o.ivlen
  | .decrypt => .xtsDec o.ks o.kt o.src o.dst o.len o.iv o.ivlen

theorem commandChecks_xtsInstr (dir : Direction) (o : XtsOperands) (s : State) :
    commandChecks s (xtsInstr dir o) = xtsChecks o s := by
  cases dir <;> rfl

/-- Settles O55: both commands list the checks of R197. -/
theorem xtsChecksInOrder : Obligations.XtsChecksInOrder := by
  intro ks kt src dst len iv ivlen s i e hi hh d w bd nt h
  have hchecks : firstFailure (xtsChecks ⟨ks, kt, src, dst, len, iv, ivlen⟩ s) = some e :=
    (firstFailure_xtsChecks ⟨ks, kt, src, dst, len, iv, ivlen⟩ s).trans h
  refine exec_of_refused_not_halted hh ?_
  rcases hi with rfl | rfl <;> exact hchecks

end Sys2Proof.Machine
end

section
/-! SUPPORT. The XTS chain under the classical ciphers of the true keys: raw blocks, the tweaks, and what the run of data
blocks leaves at `dst` block by block (R190 to R196). -/

namespace Sys2Proof.Machine

/-! ## The low bytes of a block -/

/-- The low n bytes of x, zero above: what stands in a block that was stored and read back as n bytes. -/
def lowBytes (n : Nat) (x : Block) : Block :=
  (x.setWidth (8 * n)).setWidth 128

theorem lowBytes_sixteen (x : Block) : lowBytes 16 x = x :=
  (BitVec.setWidth_eq _).trans (BitVec.setWidth_eq x)

theorem lowBytes_xor (n : Nat) (x y : Block) : lowBytes n (x ^^^ y) = lowBytes n x ^^^ lowBytes n y := by
  simp only [lowBytes, BitVec.setWidth_xor]

theorem byteAt_lowBytes {n j : Nat} (x : Block) (hn : n ≤ 16) (hj : j < n) : byteAt (lowBytes n x) j = byteAt x j := by
  apply BitVec.eq_of_getLsbD_eq
  intro i hi
  rw [getLsbD_byteAt _ _ _ hi, getLsbD_byteAt _ _ _ hi]
  simp [lowBytes, show 8 * j + i < 8 * n by omega, show 8 * j + i < 128 by omega]

theorem toBytes_congr {n m : Nat} {a b : BitVec m} (h : ∀ j < n, byteAt a j = byteAt b j) :
    toBytes n a = toBytes n b :=
  List.map_congr_left fun j hj => h j (List.mem_range.1 hj)

theorem toBytes_lowBytes_xor {n : Nat} (hn : n ≤ 16) (x y : Block) :
    toBytes n (lowBytes n x ^^^ y) = toBytes n (x ^^^ y) :=
  toBytes_congr fun j hj => by rw [byteAt_xor, byteAt_xor, byteAt_lowBytes x hn hj]

theorem toBytes_ofBytes_block {p : List Byte} {n : Nat} (hp : p.length = n) (hn : n ≤ 16) :
    toBytes n (ofBytes 128 p) = p := by
  subst hp
  refine List.ext_getElem (length_toBytes _ _) fun j h h' => ?_
  simp only [toBytes, List.getElem_map, List.getElem_range]
  exact byteAt_ofBytes 128 p j h' (by omega)

/-- A block stored as n bytes and read back keeps its low n bytes. -/
theorem ofBytes_toBytes_eq_lowBytes {n : Nat} (hn : n ≤ 16) (x : Block) :
    ofBytes 128 (toBytes n x) = lowBytes n x := by
  have hlt : leNat (toBytes n x) < 2 ^ (8 * n) := by
    have := leNat_lt (toBytes n x)
    rwa [length_toBytes, show 256 = 2 ^ 8 from rfl, ← Nat.pow_mul] at this
  have hfit : ofBytes 128 (toBytes n x) = lowBytes n (ofBytes 128 (toBytes n x)) := by
    have hle : 2 ^ (8 * n) ≤ 2 ^ 128 := Nat.pow_le_pow_right (by decide) (by omega)
    apply BitVec.eq_of_toNat_eq
    simp only [lowBytes, ofBytes, BitVec.toNat_setWidth, BitVec.toNat_ofNat]
    rw [Nat.mod_eq_of_lt (hlt.trans_le hle), Nat.mod_eq_of_lt hlt, Nat.mod_eq_of_lt (hlt.trans_le hle)]
  have hlow : (ofBytes 128 (toBytes n x)).setWidth (8 * n) = x.setWidth (8 * n) := by
    refine ext_byteAt fun j hj => ?_
    apply BitVec.eq_of_getLsbD_eq
    intro i hi
    have h := congrArg (fun v : Byte => v.getLsbD i) (byteAt_ofBytes 128 (toBytes n x) j (by simpa [length_toBytes]) (by omega))
    simp only [toBytes, List.getElem_map, List.getElem_range, getLsbD_byteAt _ _ _ hi] at h
    rw [getLsbD_byteAt _ _ _ hi, getLsbD_byteAt _ _ _ hi]
    simpa [show 8 * j + i < 8 * n by omega, toBytes] using h
  rw [hfit, lowBytes, hlow, lowBytes]

/-! ## The classical cipher of a slot in both directions -/

/-- Decryption under the true key of a slot by the classical cipher of its engine (R138, R164). -/
def classicalDecrypt (compat : Bool) (sl : Slot) (x : Block) : Block :=
  if sl.alg = .magma then (mgCipher compat (mgKeyWords compat sl.trueKey) decOrder (x.setWidth 64)).setWidth 128
  else kzClassicalInv (kzRoundKeys sl.trueKey) x

/-- The raw block operation of a direction under the true key of a slot (R191). -/
def classicalBlock (dir : Direction) (compat : Bool) (sl : Slot) : Block → Block :=
  match dir with
  | .encrypt => classicalEncrypt compat sl
  | .decrypt => classicalDecrypt compat sl

theorem classicalEncrypt_of_magma {sl : Slot} (h : sl.alg = .magma) (compat : Bool) (x : Block) :
    classicalEncrypt compat sl x =
      (mgCipher compat (mgKeyWords compat sl.trueKey) encOrder (x.setWidth 64)).setWidth 128 :=
  if_pos h

theorem classicalEncrypt_of_not_magma {sl : Slot} (h : sl.alg ≠ .magma) (compat : Bool) (x : Block) :
    classicalEncrypt compat sl x = kzClassical (kzRoundKeys sl.trueKey) x :=
  if_neg h

theorem classicalDecrypt_of_magma {sl : Slot} (h : sl.alg = .magma) (compat : Bool) (x : Block) :
    classicalDecrypt compat sl x =
      (mgCipher compat (mgKeyWords compat sl.trueKey) decOrder (x.setWidth 64)).setWidth 128 :=
  if_pos h

theorem classicalDecrypt_of_not_magma {sl : Slot} (h : sl.alg ≠ .magma) (compat : Bool) (x : Block) :
    classicalDecrypt compat sl x = kzClassicalInv (kzRoundKeys sl.trueKey) x :=
  if_neg h

theorem blockSize_le (alg : Alg) : blockSize alg ≤ 16 := by cases alg <;> decide

theorem blockSize_pos (alg : Alg) : 0 < blockSize alg := by cases alg <;> decide

theorem blockSize_of_not_magma {alg : Alg} (h : alg ≠ .magma) : blockSize alg = 16 := by
  cases alg with
  | magma => exact absurd rfl h
  | _ => rfl

theorem setWidth_setWidth_sixtyFour (x : HalfBlock) : (x.setWidth 128).setWidth 64 = x := by
  rw [BitVec.setWidth_setWidth_of_le _ (by decide), BitVec.setWidth_eq]

/-- A function on blocks that reads the low n bytes of its argument only. -/
def ReadsLow (n : Nat) (f : Block → Block) : Prop :=
  ∀ x, f (lowBytes n x) = f x

theorem ReadsLow.xor {n : Nat} {f : Block → Block} (h : ReadsLow n f) (x y : Block) :
    f (lowBytes n x ^^^ y) = f (x ^^^ y) := by
  have hlow : lowBytes n (lowBytes n x) = lowBytes n x := by
    apply BitVec.eq_of_getLsbD_eq
    intro i hi
    simp only [lowBytes, BitVec.getLsbD_setWidth]
    cases decide (i < 128) <;> cases decide (i < 8 * n) <;> simp
  rw [← h (lowBytes n x ^^^ y), lowBytes_xor, hlow, ← lowBytes_xor, h]

theorem readsLow_classicalBlock (dir : Direction) (compat : Bool) (sl : Slot) :
    ReadsLow (blockSize sl.alg) (classicalBlock dir compat sl) := fun x => by
  by_cases h : sl.alg = .magma
  · have hx : (lowBytes (blockSize sl.alg) x).setWidth 64 = x.setWidth 64 := by
      rw [h]
      exact setWidth_setWidth_sixtyFour (x.setWidth 64)
    cases dir with
    | encrypt => simp only [classicalBlock, classicalEncrypt_of_magma h, hx]
    | decrypt => simp only [classicalBlock, classicalDecrypt_of_magma h, hx]
  · rw [blockSize_of_not_magma h, lowBytes_sixteen]

theorem classicalEncrypt_classicalDecrypt (compat : Bool) (sl : Slot) (x : Block) :
    classicalEncrypt compat sl (classicalDecrypt compat sl x) = lowBytes (blockSize sl.alg) x := by
  by_cases h : sl.alg = .magma
  · rw [classicalEncrypt_of_magma h, classicalDecrypt_of_magma h, setWidth_setWidth_sixtyFour, mgCipher_enc_dec, h]
    rfl
  · rw [classicalEncrypt_of_not_magma h, classicalDecrypt_of_not_magma h, kzClassical_kzClassicalInv_schedule,
      blockSize_of_not_magma h, lowBytes_sixteen]

theorem classicalDecrypt_classicalEncrypt (compat : Bool) (sl : Slot) (x : Block) :
    classicalDecrypt compat sl (classicalEncrypt compat sl x) = lowBytes (blockSize sl.alg) x := by
  by_cases h : sl.alg = .magma
  · rw [classicalDecrypt_of_magma h, classicalEncrypt_of_magma h, setWidth_setWidth_sixtyFour, mgCipher_dec_enc, h]
    rfl
  · rw [classicalDecrypt_of_not_magma h, classicalEncrypt_of_not_magma h, kzClassicalInv_kzClassical_schedule,
      blockSize_of_not_magma h, lowBytes_sixteen]

/-- The classical operation depends on the algorithm and the true key of the slot alone. -/
theorem classicalBlock_congr {sl sl' : Slot} (ha : sl'.alg = sl.alg) (hk : sl'.trueKey = sl.trueKey) (dir : Direction)
    (compat : Bool) : classicalBlock dir compat sl' = classicalBlock dir compat sl := by
  funext x
  cases dir <;> simp only [classicalBlock, classicalEncrypt, classicalDecrypt, ha, hk]

/-- A raw block operation of a scheduled slot is the classical one, whatever the masks and the draws are. -/
theorem rawOutput_of_inv {s : State} {k : SlotIx} (h : (s.slotAt k).Inv s.cfg.compat) (ha : (s.slotAt k).alg ≠ .empty)
    (hs : (s.slotAt k).sched = true) (dir : Direction) (x : Block) :
    rawOutput dir s k x = classicalBlock dir s.cfg.compat (s.slotAt k) x := by
  unfold rawOutput
  cases halg : (s.slotAt k).alg with
  | empty => exact absurd halg ha
  | magma =>
    have hord : mgOrder dir = encOrder ∨ mgOrder dir = decOrder := by cases dir <;> simp [mgOrder]
    rw [if_pos rfl, mgCryptWith_of_inv h halg hs hord (by simp)]
    cases dir with
    | encrypt => exact (classicalEncrypt_of_magma halg _ x).symm
    | decrypt => exact (classicalDecrypt_of_magma halg _ x).symm
  | kuz =>
    have hm : (s.slotAt k).alg ≠ .magma := by rw [halg]; decide
    rw [if_neg (by decide)]
    cases dir with
    | encrypt => exact (kzEncrypt_of_inv h halg hs x).trans (classicalEncrypt_of_not_magma hm _ x).symm
    | decrypt => exact (kzDecrypt_of_inv h halg hs x).trans (classicalDecrypt_of_not_magma hm _ x).symm

/-! ## One data block -/

/-- One data block under the tweak block w: xor, the raw operation, xor (R196). -/
def xtsCrypt (n : Nat) (f : Block → Block) (w : Block) (p : List Byte) : List Byte :=
  toBytes n (f (ofBytes 128 p ^^^ w) ^^^ w)

theorem length_xtsCrypt (n : Nat) (f : Block → Block) (w : Block) (p : List Byte) : (xtsCrypt n f w p).length = n :=
  length_toBytes _ _

/-- Two raw operations that undo each other on n bytes undo each other in a data block under the same tweak. -/
theorem xtsCrypt_xtsCrypt {n : Nat} {f g : Block → Block} (hg : ReadsLow n g) (hgf : ∀ x, g (f x) = lowBytes n x)
    (hn : n ≤ 16) (w : Block) {p : List Byte} (hp : p.length = n) : xtsCrypt n g w (xtsCrypt n f w p) = p := by
  have hback : ofBytes 128 (xtsCrypt n f w p) = lowBytes n (f (ofBytes 128 p ^^^ w) ^^^ w) :=
    ofBytes_toBytes_eq_lowBytes hn _
  have hcancel : ∀ y : Block, y ^^^ w ^^^ w = y := fun y => by rw [BitVec.xor_assoc, BitVec.xor_self, BitVec.xor_zero]
  rw [xtsCrypt, hback, hg.xor, hcancel, hgf, toBytes_lowBytes_xor hn, hcancel, toBytes_ofBytes_block hp hn]

end Sys2Proof.Machine
end

section
/-! SUPPORT. The XTS tweaks under the classical cipher, and what steps 1 to 4 of R200 leave at `dst` block by block. -/

namespace Sys2Proof.Machine

/-! ## The tweaks -/

theorem and_low_mask (t : Block) : t &&& 0xFFFFFFFFFFFFFFFF = (t.extractLsb' 0 64).setWidth 128 := by
  have hmask : (0xFFFFFFFFFFFFFFFF : Block) = (BitVec.allOnes 64).setWidth 128 := by decide
  rw [hmask]
  apply BitVec.eq_of_getLsbD_eq
  intro i hi
  simp only [BitVec.getLsbD_and, BitVec.getLsbD_setWidth, BitVec.getLsbD_extractLsb', BitVec.getLsbD_allOnes,
    Nat.zero_add, hi, decide_true, Bool.true_and, Bool.and_comm]

theorem shiftRight_eq_extract (t : Block) : t >>> 64 = (t.extractLsb' 64 64).setWidth 128 := by
  apply BitVec.eq_of_getLsbD_eq
  intro i hi
  by_cases h : i < 64
  · simp [h, hi]
  · simp [h, hi, show 128 ≤ 64 + i by omega]

theorem or_shiftLeft_eq_append (hi lo : HalfBlock) (h : Block) (hh : h.setWidth 64 = hi) :
    (h <<< 64) ||| lo.setWidth 128 = hi ++ lo := by
  subst hh
  apply BitVec.eq_of_getLsbD_eq
  intro i hi
  rw [BitVec.getLsbD_append]
  by_cases h : i < 64
  · simp [h, hi]
  · rw [BitVec.getLsbD_or, BitVec.getLsbD_shiftLeft, BitVec.getLsbD_setWidth, BitVec.getLsbD_of_ge lo i (by omega)]
    simp [h, hi, show i - 64 < 64 by omega]

/-- The engine's block size is 8 or 16 bytes. -/
theorem blockSize_eq_or (alg : Alg) : blockSize alg = 8 ∨ blockSize alg = 16 := by cases alg <;> decide

theorem blockTweak_tweakState {bd : Nat} (hbd : bd = 8 ∨ bd = 16) (t : Block) (n : Nat) :
    blockTweak bd n (tweakState bd t n) = tweakOfBlock bd t n := by
  rcases hbd with rfl | rfl
  · simp only [blockTweak, tweakOfBlock, if_true, and_low_mask, shiftRight_eq_extract, Nat.reduceEqDiff, if_false]
  · rfl

theorem advanceTweak_tweakState {bd : Nat} (hbd : bd = 8 ∨ bd = 16) (t : Block) (n : Nat) :
    advanceTweak bd n (tweakState bd t n) = tweakState bd t (n + 1) := by
  rcases hbd with rfl | rfl
  · have hstate : tweakState 8 t (n + 1) = if n % 2 = 1 then doubleTweak (tweakState 8 t n) else tweakState 8 t n :=
      if_congr (or_iff_right (by decide)) rfl rfl
    rw [hstate, advanceTweak, if_pos rfl]
    rcases Nat.mod_two_eq_zero_or_one n with h | h <;> rw [h]
    · rw [if_pos rfl, if_neg (by decide)]
    · rw [if_pos rfl, if_neg (by decide)]
  · exact (if_neg (by decide)).trans (if_pos (Or.inl rfl)).symm

/-- The classical tweak depends on the algorithm and the true key of the slot alone. -/
theorem classicalTweak_congr {sl sl' : Slot} (ha : sl'.alg = sl.alg) (hk : sl'.trueKey = sl.trueKey) (compat : Bool)
    (x : Block) : classicalTweak compat sl' x = classicalTweak compat sl x := by
  have he : classicalEncrypt compat sl' = classicalEncrypt compat sl := classicalBlock_congr ha hk .encrypt compat
  rw [classicalTweak, classicalTweak, ha, he]

/-- The initial tweak of a scheduled slot is the classical one, whatever the masks and the draws are (R193). -/
theorem initialTweak_eq_ok_of_inv {who k : SlotIx} {x y : Block} {s t : State} (hi : (s.slotAt k).Inv s.cfg.compat)
    (ha : (s.slotAt k).alg ≠ .empty) (hs : (s.slotAt k).sched = true) (h : initialTweak who k x s = .ok y t) :
    y = classicalTweak s.cfg.compat (s.slotAt k) x := by
  have hraw : ∀ n z, rawOutput .encrypt (afterAnswers s n) k z = classicalEncrypt s.cfg.compat (s.slotAt k) z :=
    fun n z => rawOutput_of_inv (s := afterAnswers s n) hi ha hs .encrypt z
  unfold initialTweak at h
  by_cases hm : (s.slotAt k).alg = .magma
  · simp only [hm] at h
    obtain ⟨lo, u, hlo, h⟩ := (Res.bind_eq_ok _ _ _ _).1 h
    obtain ⟨hi', v, hhi, h⟩ := (Res.bind_eq_ok _ _ _ _).1 h
    obtain ⟨-, rfl, rfl⟩ := rawBlock_eq_ok hlo
    obtain ⟨-, rfl, -⟩ := rawBlock_eq_ok hhi
    have hy := (Res.ok.inj h).1
    have hlow : ∀ z, ∃ w : HalfBlock, classicalEncrypt s.cfg.compat (s.slotAt k) z = w.setWidth 128 := fun z =>
      ⟨_, classicalEncrypt_of_magma hm _ z⟩
    have hreads : ∀ z w : Block, classicalEncrypt s.cfg.compat (s.slotAt k) (lowBytes 8 z ^^^ w) =
        classicalEncrypt s.cfg.compat (s.slotAt k) (z ^^^ w) := fun z w => by
      have hr := readsLow_classicalBlock .encrypt s.cfg.compat (s.slotAt k)
      rw [hm] at hr
      exact hr.xor z w
    rw [hraw, show rawOutput .encrypt s k = _ from funext (hraw 0)] at hy
    rw [classicalTweak, if_pos hm, ← hy, and_low_mask, shiftRight_eq_extract]
    obtain ⟨w, hw⟩ := hlow ((x.extractLsb' 0 64).setWidth 128)
    simp only [hw, setWidth_setWidth_sixtyFour, BitVec.setWidth_xor]
    exact or_shiftLeft_eq_append _ _ _ rfl
  · have hr : rawBlock .encrypt who k x s = .ok y t := by
      cases halg : (s.slotAt k).alg with
      | magma => exact absurd halg hm
      | _ => simpa only [halg] using h
    obtain ⟨-, rfl, -⟩ := rawBlock_eq_ok hr
    rw [classicalTweak, if_neg hm]
    exact hraw 0 x

/-! ## The run of data blocks -/

theorem memRead_eq_ok_congr {m m' : Memory} {a n : Nat} (h : ∀ j < n, memByte m' (a + j) = memByte m (a + j))
    (bs : List Byte) : memRead m' a n = .ok bs ↔ memRead m a n = .ok bs := by
  simp only [memRead_eq_ok]
  exact and_congr_right fun _ => forall₂_congr fun j hj => by rw [h j hj]

theorem readable_store {s : State} {a n : Nat} (h : readable s a n) (b : Nat) (bs : List Byte) :
    readable (s.store b bs) a n := fun j hj => by
  rw [Option.isSome_iff_ne_none]
  intro hn
  have := h j hj
  rw [memByte_eq_none_of_store hn] at this
  exact Bool.noConfusion this

theorem readable_of_subrange {s : State} {a n b m : Nat} (h : readable s a n) (hle : a ≤ b) (hn : b + m ≤ a + n) :
    readable s b m := fun j hj => by
  have := h (b - a + j) (by omega)
  rwa [show a + (b - a + j) = b + j by omega] at this

/-- The run of data blocks does not stop where its source is written. -/
theorem xtsBlocks_ne_stop (dir : Direction) (ks : SlotIx) (src dst bd m n : Nat) (x : Block) {s : State}
    (h : readable s (src + bd * n) (bd * m)) {f : Fault} :
    xtsBlocks dir ks src dst bd m n x s ≠ .stop f := by
  induction m generalizing n x s with
  | zero => nofun
  | succ m ih =>
    have hmul : bd * (m + 1) = bd * m + bd := Nat.mul_succ bd m
    have hmul' : bd * (n + 1) = bd * n + bd := Nat.mul_succ bd n
    unfold xtsBlocks
    rw [readBytes_of_readable _ _ _ (readable_of_subrange h (Nat.le_refl _) (by omega)), Res.bind]
    rcases rawBlock_cases dir ks ks (ofBytes 128 (bytesAt s (src + bd * n) bd) ^^^ blockTweak bd n x) s with
      ⟨-, hr⟩ | ⟨j, -, -, -, hr⟩ <;> rw [hr, Res.bind]
    · have hnext : readable (afterAnswers s (rawDraws s ks)) (src + bd * (n + 1)) (bd * m) :=
        readable_of_subrange h (by omega) (by omega)
      exact ih _ _ (readable_store hnext _ _)
    · nofun

theorem xtsBlocks_outside {dir : Direction} {ks : SlotIx} {src dst bd m n : Nat} {x : Block} {s t : State}
    (h : xtsBlocks dir ks src dst bd m n x s = .ok () t) (a : Nat) (ha : ¬ within a (dst + bd * n) (bd * m)) :
    memByte t.mem a = memByte s.mem a := by
  rcases xtsBlocks_cases dir ks src dst bd m n x s with ⟨mem', hframe, -, ⟨-, hr⟩ | ⟨j, -, -, -, hr⟩⟩ | ⟨y, hr⟩
  · rw [hr] at h
    obtain rfl := (Res.ok.inj h).2
    exact hframe a ha
  · rw [hr] at h
    nomatch h
  · rw [hr] at h
    nomatch h

/-- The raw operation of slot k is f in every state with the slots and the configuration of s. -/
def RawIs (dir : Direction) (k : SlotIx) (f : Block → Block) (s : State) : Prop :=
  ∀ u : State, u.slots = s.slots → u.cfg = s.cfg → ∀ y, rawOutput dir u k y = f y

theorem rawIs_of_inv {s : State} {k : SlotIx} (h : s.Inv) (ha : (s.slotAt k).alg ≠ .empty)
    (hs : (s.slotAt k).sched = true) (dir : Direction) :
    RawIs dir k (classicalBlock dir s.cfg.compat (s.slotAt k)) s := fun u hu hc y => by
  have hslot : u.slotAt k = s.slotAt k := by rw [State.slotAt, hu, State.slotAt]
  rw [rawOutput_of_inv (by rw [hslot, hc]; exact h.slotAt k) (by rwa [hslot]) (by rwa [hslot]), hslot, hc]

/-- Source and destination of N blocks are the same or do not overlap. -/
def Separate (src dst n : Nat) : Prop :=
  src = dst ∨ src + n ≤ dst ∨ dst + n ≤ src

/-- Blocks n to n + m of a run in place or between separate buffers: each is the raw operation on the block that stood at
`src`, under its tweak (R195, R196). -/
theorem xtsBlocks_output {dir : Direction} {ks : SlotIx} {src dst bd : Nat} (hbd : bd = 8 ∨ bd = 16) {nb : Nat}
    (hsep : Separate src dst (bd * nb)) {f : Block → Block} (x : Block) (m n : Nat) {s t : State}
    (hraw : RawIs dir ks f s) (hle : n + m ≤ nb)
    (h : xtsBlocks dir ks src dst bd m n (tweakState bd x n) s = .ok () t) (i : Nat) (hi : n ≤ i) (hi' : i < n + m) :
    ∃ p, memRead s.mem (src + bd * i) bd = .ok p ∧
      memRead t.mem (dst + bd * i) bd = .ok (xtsCrypt bd f (tweakOfBlock bd x i) p) := by
  induction m generalizing n s with
  | zero => omega
  | succ m ih =>
    unfold xtsBlocks at h
    obtain ⟨p, u, hread, h⟩ := (Res.bind_eq_ok _ _ _ _).1 h
    obtain ⟨c, v, hblock, h⟩ := (Res.bind_eq_ok _ _ _ _).1 h
    obtain ⟨rfl, hp⟩ := readBytes_eq_ok hread
    obtain ⟨-, rfl, rfl⟩ := rawBlock_eq_ok hblock
    rw [hraw u rfl rfl, blockTweak_tweakState hbd, advanceTweak_tweakState hbd] at h
    have hlen := length_xtsCrypt bd f (tweakOfBlock bd x n) p
    change xtsBlocks dir ks src dst bd m (n + 1) _
      ((afterAnswers u (rawDraws u ks)).store (dst + bd * n) (xtsCrypt bd f (tweakOfBlock bd x n) p)) = _ at h
    have hstored := memRead_store (afterAnswers u (rawDraws u ks)) (dst + bd * n) (xtsCrypt bd f (tweakOfBlock bd x n) p)
    have hframe := xtsBlocks_outside h
    generalize hout : xtsCrypt bd f (tweakOfBlock bd x n) p = out at h hlen hstored hframe
    rw [hlen] at hstored
    have hstep : ∀ k, bd * (k + 1) = bd * k + bd := fun k => Nat.mul_succ bd k
    rcases Nat.eq_or_lt_of_le hi with rfl | hlt
    · refine ⟨p, hp, ?_⟩
      rw [hout]
      refine (memRead_eq_ok_congr (fun j hj => ?_) _).2 hstored
      exact hframe (dst + bd * n + j) (by unfold within; rw [hstep]; omega)
    · obtain ⟨q, hq, hout⟩ := ih (n + 1) (s := (afterAnswers u (rawDraws u ks)).store (dst + bd * n) out)
        hraw (by omega) h hlt (by omega)
      refine ⟨q, (memRead_eq_ok_congr (fun j hj => ?_) q).1 hq, hout⟩
      have h1 : bd * (i + 1) ≤ bd * nb := Nat.mul_le_mul_left _ (by omega)
      have h2 : bd * (n + 1) ≤ bd * i := Nat.mul_le_mul_left _ hlt
      rw [hstep] at h1 h2
      refine memByte_store_of_not_within _ _ _ _ ?_
      rw [hlen]
      unfold within
      rcases hsep with rfl | h | h <;> omega

end Sys2Proof.Machine
end

section
/-! SUPPORT. Steps 1 to 4 of an XTS command that passed its checks, with its requests counted (R198, R200). -/

namespace Sys2Proof.Machine

/-! ## Block sizes and counts -/

theorem xtsBlockSize_eq (o : XtsOperands) (s : State) : xtsBlockSize o s = sizeOfSlotBlock s o.ks := by
  unfold xtsBlockSize sizeOfSlotBlock
  cases (s.slotAt o.ks).alg <;> rfl

theorem xtsTweakBlocks_eq (o : XtsOperands) (s : State) : xtsTweakBlocks o s = tweakCost s o.kt := by
  unfold xtsTweakBlocks tweakCost
  cases (s.slotAt o.kt).alg <;> rfl

theorem xtsBlockSize_eq_or (o : XtsOperands) (s : State) : xtsBlockSize o s = 8 ∨ xtsBlockSize o s = 16 :=
  blockSize_eq_or _

/-- The requests before the exit re-masking: those of the two tweak blocks, then those of the data blocks (R198). -/
theorem xtsBlockDraws_eq (o : XtsOperands) (s : State) :
    xtsBlockDraws o s = 2 * rawDraws s o.kt + xtsDataBlocks o s * rawDraws s o.ks := by
  unfold xtsBlockDraws xtsDataBlocks xtsBlockSize rawDraws
  cases (s.slotAt o.kt).alg <;> cases (s.slotAt o.ks).alg <;>
    simp only [if_true, reduceCtorEq, if_false, blockSize, Nat.mul_zero, Nat.mul_comm 32]

/-! ## What a passed XTS command may rely on -/

/-- What the checks of R197 and the machine's invariant give an XTS command that passed. -/
structure XtsReady (o : XtsOperands) (s : State) : Prop where
  inv : s.Inv
  data_key : (s.slotAt o.ks).alg ≠ .empty
  tweak_key : (s.slotAt o.kt).alg ≠ .empty
  data_sched : (s.slotAt o.ks).sched = true
  tweak_sched : (s.slotAt o.kt).sched = true
  two_slots : o.ks ≠ o.kt
  whole_blocks : xtsBlockSize o s * xtsDataBlocks o s = o.len.toNat
  data_res : xtsDataBlocks o s ≤ (s.slotAt o.ks).res.toNat
  tweak_res : xtsTweakBlocks o s ≤ (s.slotAt o.kt).res.toNat
  data_slot : o.ks.toNat < s.slots.length
  tweak_slot : o.kt.toNat < s.slots.length

/-- Every part of it is one of the checks, or the invariant. -/
theorem xtsReady_of_passed {dir : Direction} {o : XtsOperands} {s : State} (hs : s.Inv)
    (h : refusalOf (xtsInstr dir o) s = none) : XtsReady o s := by
  have hp : firstFailure (haltedCheck s :: xtsChecks o s) = none := by
    have := passed_of_refusalOf h
    rwa [commandChecks_xtsInstr] at this
  obtain ⟨hks, hkt, hss, hst, hne, hlen, hrs, hrt⟩ := xtsChecks_passed hp
  have hslot : ∀ k, slotCheck s k ∈ haltedCheck s :: xtsChecks o s → k.toNat < s.slots.length := fun k hk => by
    have := check_passed hp hk
    rw [hs.slot_count]
    simpa [slotCheck, slotBelow] using this
  exact ⟨hs, hks, hkt, hss, hst, hne, Nat.mul_div_cancel' (Nat.dvd_of_mod_eq_zero hlen), hrs, hrt,
    hslot o.ks (by simp [xtsChecks]), hslot o.kt (by simp [xtsChecks])⟩

section
variable {o : XtsOperands} {s : State}

/-- Steps 1 to 4 of R200 where the initial vector and the source are written: all their requests are answered and the
counters are spent, or the first that fails ends them; they write inside `dst` only. -/
theorem xtsProcess_of_readable (dir : Direction) (hr : XtsReady o s) (hiv : readable s o.iv.toNat o.ivlen.toNat)
    (hsrc : readable s o.src.toNat o.len.toNat) :
    ∃ mem', (∀ a, ¬ within a o.dst.toNat o.len.toNat → memByte mem' a = memByte s.mem a) ∧
      (s.mem.wf = true → Memory.wf mem' = true) ∧
      ((answersOk s (xtsBlockDraws o s) ∧
          xtsProcess dir o s = .ok () (xtsSpent o { afterAnswers s (xtsBlockDraws o s) with mem := mem' })) ∨
        ∃ j < xtsBlockDraws o s, answersOk s j ∧ answerAt s j = none ∧
          xtsProcess dir o s = .err (.entropy o.ks) { afterAnswers s (j + 1) with mem := mem' }) := by
  unfold xtsProcess
  rw [readBytes_of_readable _ _ _ hiv, Res.bind, xtsBlockDraws_eq]
  rcases initialTweak_cases o.ks o.kt (ofBytes 128 (bytesAt s o.iv.toNat o.ivlen.toNat)) s with
    ⟨x, hok, hf⟩ | ⟨j, hj, hok, hn, hf⟩ <;> rw [hf, Res.bind]
  swap
  · exact ⟨s.mem, fun _ _ => rfl, id, .inr ⟨j, by omega, hok, hn, rfl⟩⟩
  generalize hd : 2 * rawDraws s o.kt = d at hok
  have hsize : xtsBlockSize o (afterAnswers s d) * xtsDataBlocks o (afterAnswers s d) = o.len.toNat := hr.whole_blocks
  have hread : readable (afterAnswers s d) (o.src.toNat + xtsBlockSize o (afterAnswers s d) * 0)
      (xtsBlockSize o (afterAnswers s d) * xtsDataBlocks o (afterAnswers s d)) := by
    rw [hsize]
    exact hsrc
  have hjoin : ∀ n, answersOk (afterAnswers s d) n → answersOk s (d + n) := fun n hn j hj => by
    rcases Nat.lt_or_ge j d with h | h
    · exact hok j h
    · have := hn (j - d) (by omega)
      rwa [answerAt_afterAnswers, show d + (j - d) = j by omega] at this
  have hlater : ∀ n mem', ({ afterAnswers (afterAnswers s d) n with mem := mem' } : State) =
      { afterAnswers s (d + n) with mem := mem' } := fun n mem' => by rw [afterAnswers_add]
  rcases xtsBlocks_cases dir o.ks o.src.toNat o.dst.toNat (xtsBlockSize o (afterAnswers s d))
      (xtsDataBlocks o (afterAnswers s d)) 0 x (afterAnswers s d) with ⟨mem', hframe, hwf, h⟩ | ⟨y, hy⟩
  swap
  · exact absurd hy (xtsBlocks_ne_stop _ _ _ _ _ _ _ _ hread)
  rw [hsize] at hframe
  refine ⟨mem', hframe, hwf, ?_⟩
  rcases h with ⟨h1, h2⟩ | ⟨j, hj, h1, h2, h3⟩
  · rw [h2, hlater]
    exact .inl ⟨hjoin _ h1, rfl⟩
  · rw [h3, hlater]
    exact .inr ⟨d + j, by exact Nat.add_lt_add_left hj d, hjoin j h1, by rwa [answerAt_afterAnswers] at h2, rfl⟩

/-- The memory steps 1 to 4 of R200 leave when they end well: block by block the classical operation under the true keys
on the source, under the classical tweaks (R192 to R196). -/
theorem xtsProcess_output {dir : Direction} {u : State} (hr : XtsReady o s)
    (hsep : Separate o.src.toNat o.dst.toNat o.len.toNat) (h : xtsProcess dir o s = .ok () u) :
    ∃ iv, memRead s.mem o.iv.toNat o.ivlen.toNat = .ok iv ∧
      ∀ n < xtsDataBlocks o s, ∃ p, memRead s.mem (o.src.toNat + xtsBlockSize o s * n) (xtsBlockSize o s) = .ok p ∧
        memRead u.mem (o.dst.toNat + xtsBlockSize o s * n) (xtsBlockSize o s) =
          .ok (xtsCrypt (xtsBlockSize o s) (classicalBlock dir s.cfg.compat (s.slotAt o.ks))
            (tweakOfBlock (xtsBlockSize o s) (classicalTweak s.cfg.compat (s.slotAt o.kt) (ofBytes 128 iv)) n) p) := by
  unfold xtsProcess at h
  obtain ⟨iv, v, hiv, h⟩ := (Res.bind_eq_ok _ _ _ _).1 h
  obtain ⟨x, w, hx, h⟩ := (Res.bind_eq_ok _ _ _ _).1 h
  obtain ⟨⟨⟩, z, hz, hend⟩ := (Res.bind_eq_ok _ _ _ _).1 h
  obtain ⟨rfl, hiv⟩ := readBytes_eq_ok hiv
  obtain rfl := initialTweak_eq_ok_of_inv (hr.inv.slotAt o.kt) hr.tweak_key hr.tweak_sched hx
  obtain ⟨-, rfl⟩ := initialTweak_eq_ok hx
  obtain rfl : xtsSpent o z = u := (Res.ok.inj hend).2
  refine ⟨iv, hiv, fun n hn => ?_⟩
  have hraw := rawIs_of_inv hr.inv hr.data_key hr.data_sched dir
  refine xtsBlocks_output (s := afterAnswers v (2 * rawDraws v o.kt)) (t := z) (xtsBlockSize_eq_or o v) ?_ _ _ 0 hraw
    (Nat.le_of_eq (Nat.zero_add _)) hz n (Nat.zero_le _) ?_
  · exact hr.whole_blocks.symm ▸ hsep
  · rwa [Nat.zero_add]

end

end Sys2Proof.Machine
end

section
/-! SUPPORT. The exit re-masking of XTS as one function of the state it begins with, and what an XTS command leaves of the
state it began with (R202, R203). -/

namespace Sys2Proof.Machine

/-! ## Requests counted from a later state -/

/-- The answers of the state v are those of s from the j-th on. -/
def DrawnFrom (s v : State) (j : Nat) : Prop :=
  ∀ i, answerAt v i = answerAt s (j + i)

section
variable {s v : State} {j : Nat}

theorem DrawnFrom.drawn (h : DrawnFrom s v j) (i n : Nat) : drawn v i n = drawn s (j + i) n := by
  simp only [Machine.drawn, h i]

theorem DrawnFrom.remaskAnswered (h : DrawnFrom s v j) (i : Nat) : remaskAnswered v i = remaskAnswered s (j + i) := by
  simp only [Machine.remaskAnswered, h _, Nat.add_assoc]

theorem DrawnFrom.remaskRequests (h : DrawnFrom s v j) (i : Nat) : remaskRequests v i = remaskRequests s (j + i) := by
  simp only [Machine.remaskRequests, h _, Nat.add_assoc]

theorem DrawnFrom.afterRemask (h : DrawnFrom s v j) (i : Nat) (sl : Slot) :
    afterRemask v i sl = afterRemask s (j + i) sl := by
  simp only [Machine.afterRemask, h.remaskAnswered, freshlyMasked, h.drawn, Nat.add_assoc]

end

/-! ## One attempt, and the two attempts -/

/-- The state after an attempt to re-mask the scheduled slot k: its requests spent, the slot under fresh masks if they
were all answered (R107, R202). -/
def attempted (k : SlotIx) (s : State) : State :=
  (afterAnswers s (remaskRequests s 0)).setSlot k (afterRemask s 0 (s.slotAt k))

theorem drawnFrom_attempted (k : SlotIx) (s : State) : DrawnFrom s (attempted k s) (remaskRequests s 0) :=
  answerAt_afterAnswers s _

theorem slotAt_attempted_self {k : SlotIx} (s : State) (h : k.toNat < s.slots.length) :
    (attempted k s).slotAt k = afterRemask s 0 (s.slotAt k) :=
  slotAt_setSlot_self _ _ _ h

theorem slotAt_attempted_ne {k k' : SlotIx} (s : State) (h : k' ≠ k) : (attempted k s).slotAt k' = s.slotAt k' :=
  slotAt_setSlot_ne _ _ _ _ h

theorem attemptAfter_remask_scheduled (who k : SlotIx) (first : Option CoreError) {compat : Bool} {s : State}
    (h : (s.slotAt k).Inv compat) (hs : (s.slotAt k).sched = true) (ha : (s.slotAt k).alg ≠ .empty)
    (c : Option CoreError → State → Res Unit) :
    attemptAfter first (remask who k s) c =
      c (if remaskAnswered s 0 then first else first.or (some (.entropy who))) (attempted k s) := by
  unfold attempted
  rcases remask_scheduled who k h hs ha with ⟨hm, hr⟩ | ⟨hm, hr⟩ <;> rw [hr, hm]
  · rw [afterRemask_of_answered hm]
    rfl
  · rw [afterRemask_of_failed hm]
    exact congrArg (c _) (setSlot_slotAt (afterAnswers s _) k).symm

/-- The state after the exit re-masking that begins in s (R202). -/
def exitRemasked (o : XtsOperands) (s : State) : State :=
  attempted o.kt (attempted o.ks s)

/-- Both re-maskings are attempted; the command reports what failed before them, or the first of them that fails. -/
theorem exitRemask_eq {o : XtsOperands} {s : State} (h : s.Inv) (hne : o.ks ≠ o.kt)
    (hs : (s.slotAt o.ks).sched = true) (ha : (s.slotAt o.ks).alg ≠ .empty)
    (hs' : (s.slotAt o.kt).sched = true) (ha' : (s.slotAt o.kt).alg ≠ .empty) (first : Option CoreError) :
    exitRemask o first s =
      reportFirst (if remaskAnswered s 0 && remaskAnswered s (tweakRemaskAt s 0) then first
        else first.or (some (.entropy o.ks))) (exitRemasked o s) := by
  have hkt : (attempted o.ks s).slotAt o.kt = s.slotAt o.kt := slotAt_setSlot_ne _ _ _ _ (Ne.symm hne)
  have hinv := h.slotAt o.kt
  rw [← hkt] at hinv hs' ha'
  have hans : remaskAnswered (attempted o.ks s) 0 = remaskAnswered s (tweakRemaskAt s 0) := by
    rw [(drawnFrom_attempted o.ks s).remaskAnswered, tweakRemaskAt, Nat.zero_add, Nat.add_zero]
  unfold exitRemask exitRemasked
  rw [attemptAfter_remask_scheduled o.ks o.ks first (h.slotAt o.ks) hs ha,
    attemptAfter_remask_scheduled o.ks o.kt _ hinv hs' ha', hans]
  cases remaskAnswered s 0 <;> cases remaskAnswered s (tweakRemaskAt s 0) <;> cases first <;> rfl

/-! ## Before the exit re-masking -/

/-- What an XTS command has left of the state s before its exit re-masking, after j requests: the counters of its two
slots and the bytes at `dst` may have changed, and nothing else. -/
structure XtsMid (o : XtsOperands) (s v : State) (j : Nat) : Prop where
  inv : v.Inv
  slots_kept : ∀ k, v.slotAt k = { s.slotAt k with res := (v.slotAt k).res }
  other_slots : ∀ k, k ≠ o.ks → k ≠ o.kt → v.slotAt k = s.slotAt k
  outside_kept : ∀ a, ¬ within a o.dst.toNat o.len.toNat → memByte v.mem a = memByte s.mem a
  rest_kept : v = { afterAnswers s j with slots := v.slots, mem := v.mem, freeBytes := v.freeBytes }
  slot_count : v.slots.length = s.slots.length

section
variable {o : XtsOperands} {s v : State} {j : Nat}

theorem XtsMid.alg_eq (h : XtsMid o s v j) (k : SlotIx) : (v.slotAt k).alg = (s.slotAt k).alg := by
  rw [h.slots_kept]

theorem XtsMid.sched_eq (h : XtsMid o s v j) (k : SlotIx) : (v.slotAt k).sched = (s.slotAt k).sched := by
  rw [h.slots_kept]

theorem XtsMid.drawnFrom (h : XtsMid o s v j) : DrawnFrom s v j := fun i => by
  rw [h.rest_kept]
  exact answerAt_afterAnswers s j i

/-- Requests after it are later requests from s. -/
theorem XtsMid.afterAnswers_eq (h : XtsMid o s v j) (n : Nat) (slots : List Slot) (mem : Memory) (free : Nat) :
    ({ afterAnswers v n with slots := slots, mem := mem, freeBytes := free } : State) =
      { afterAnswers s (j + n) with slots := slots, mem := mem, freeBytes := free } := by
  rw [h.rest_kept, ← afterAnswers_add]
  rfl

theorem XtsMid.exitRemask_eq (h : XtsMid o s v j) (hr : XtsReady o s) (first : Option CoreError) :
    exitRemask o first v =
      reportFirst (if remaskAnswered s j && remaskAnswered s (tweakRemaskAt s j) then first
        else first.or (some (.entropy o.ks))) (exitRemasked o v) := by
  have hdata : remaskAnswered v 0 = remaskAnswered s j := h.drawnFrom.remaskAnswered 0
  have htweak : remaskAnswered v (tweakRemaskAt v 0) = remaskAnswered s (tweakRemaskAt s j) := by
    rw [h.drawnFrom.remaskAnswered, tweakRemaskAt, h.drawnFrom.remaskRequests, Nat.zero_add, tweakRemaskAt, Nat.add_zero]
  rw [Machine.exitRemask_eq h.inv hr.two_slots (h.sched_eq _ ▸ hr.data_sched) (h.alg_eq _ ▸ hr.data_key)
    (h.sched_eq _ ▸ hr.tweak_sched) (h.alg_eq _ ▸ hr.tweak_key), hdata, htweak]

end

/-- Before the exit re-masking of a command whose tweak derivation or data blocks failed. -/
theorem xtsMid_scramble {o : XtsOperands} {s : State} (hr : XtsReady o s)
    (hdst : ∀ x, s.cfg.memSize ≤ x → ¬ within x o.dst.toNat o.len.toNat) {mem' : Memory} (n : Nat)
    (hframe : ∀ a, ¬ within a o.dst.toNat o.len.toNat → memByte mem' a = memByte s.mem a)
    (hwf : s.mem.wf = true → Memory.wf mem' = true) :
    XtsMid o s (({ afterAnswers s n with mem := mem' } : State).scramble o.dst.toNat o.len.toNat) n where
  inv := ((hr.inv.afterAnswers n).withMem hwf fun a ha => hframe a (hdst a ha)).scramble _ _ hdst
  slots_kept _ := rfl
  other_slots _ _ _ := rfl
  outside_kept a ha := by
    rw [← hframe a ha]
    exact memByte_store_of_not_within { afterAnswers s n with mem := mem' } _ _ a (by simpa using ha)
  rest_kept := rfl
  slot_count := rfl

/-- The slots after step 4 of R200: the two counters spent. -/
theorem slotAt_xtsSpent {o : XtsOperands} {s : State} (hne : o.ks ≠ o.kt) (hs : o.ks.toNat < s.slots.length)
    (ht : o.kt.toNat < s.slots.length) :
    (xtsSpent o s).slotAt o.ks = (s.slotAt o.ks).spend (xtsDataBlocks o s) ∧
      (xtsSpent o s).slotAt o.kt = (s.slotAt o.kt).spend (xtsTweakBlocks o s) ∧
      ∀ k, k ≠ o.ks → k ≠ o.kt → (xtsSpent o s).slotAt k = s.slotAt k := by
  unfold xtsSpent
  dsimp only
  refine ⟨?_, ?_, fun k hk hk' => ?_⟩
  · rw [slotAt_setSlot_ne _ _ _ _ hne, slotAt_setSlot_self _ _ _ hs]
  · rw [slotAt_setSlot_self _ _ _ (by simpa [State.setSlot] using ht), slotAt_setSlot_ne _ _ _ _ (Ne.symm hne)]
  · rw [slotAt_setSlot_ne _ _ _ _ hk', slotAt_setSlot_ne _ _ _ _ hk]

/-- Before the exit re-masking of a command whose data blocks are complete. -/
theorem xtsMid_xtsSpent {o : XtsOperands} {s : State} (hr : XtsReady o s)
    (hdst : ∀ x, s.cfg.memSize ≤ x → ¬ within x o.dst.toNat o.len.toNat) {mem' : Memory} (n : Nat)
    (hframe : ∀ a, ¬ within a o.dst.toNat o.len.toNat → memByte mem' a = memByte s.mem a)
    (hwf : s.mem.wf = true → Memory.wf mem' = true) :
    XtsMid o s (xtsSpent o { afterAnswers s n with mem := mem' }) n := by
  have hk : Keeps s { afterAnswers s n with mem := mem' } :=
    ((Keeps.refl s).afterAnswers n).withMem hwf fun a ha => hframe a (hdst a ha)
  obtain ⟨hdata, htweak, hother⟩ := slotAt_xtsSpent (s := { afterAnswers s n with mem := mem' }) hr.two_slots
    hr.data_slot hr.tweak_slot
  refine ⟨(hk.xtsSpent hr.two_slots hr.data_key hr.tweak_key hr.data_res hr.tweak_res).1 hr.inv, fun k => ?_, hother,
    hframe, rfl, by simp [xtsSpent, State.setSlot]⟩
  by_cases hks : k = o.ks
  · rw [hks, hdata]
    rfl
  · by_cases hkt : k = o.kt
    · rw [hkt, htweak]
      rfl
    · rw [hother k hks hkt]
      rfl

theorem res_xtsSpent {o : XtsOperands} {s : State} (hr : XtsReady o s) (n : Nat) (mem' : Memory) :
    ((xtsSpent o { afterAnswers s n with mem := mem' }).slotAt o.ks).res.toNat + o.len.toNat / sizeOfSlotBlock s o.ks =
        (s.slotAt o.ks).res.toNat ∧
      ((xtsSpent o { afterAnswers s n with mem := mem' }).slotAt o.kt).res.toNat + tweakCost s o.kt =
        (s.slotAt o.kt).res.toNat := by
  obtain ⟨hdata, htweak, -⟩ := slotAt_xtsSpent (s := { afterAnswers s n with mem := mem' }) hr.two_slots
    hr.data_slot hr.tweak_slot
  rw [hdata, htweak, ← xtsBlockSize_eq, ← xtsTweakBlocks_eq]
  exact ⟨(congrArg (· + _) (spend_res_toNat _ _ hr.data_res)).trans (Nat.sub_add_cancel hr.data_res),
    (congrArg (· + _) (spend_res_toNat _ _ hr.tweak_res)).trans (Nat.sub_add_cancel hr.tweak_res)⟩

/-! ## After the exit re-masking -/

theorem afterRemask_with_res (s : State) (j : Nat) (sl : Slot) (r : BitVec 64) :
    afterRemask s j { sl with res := r } = { afterRemask s j sl with res := r } := by
  unfold afterRemask freshlyMasked
  split
  · split <;> rfl
  · rfl

theorem afterRemask_res (s : State) (j : Nat) (sl : Slot) : (afterRemask s j sl).res = sl.res := by
  unfold afterRemask
  split
  · exact freshlyMasked_res s j sl
  · rfl

/-- What an XTS command has left of the state s when its exit re-masking, which begins with the j-th request, has ended
in t: R203's list, and the requests spent. -/
structure XtsExit (o : XtsOperands) (s v t : State) (j : Nat) : Prop where
  data_slot : t.slotAt o.ks = { afterRemask s j (s.slotAt o.ks) with res := (t.slotAt o.ks).res }
  tweak_slot : t.slotAt o.kt = { afterRemask s (tweakRemaskAt s j) (s.slotAt o.kt) with res := (t.slotAt o.kt).res }
  other_slots : ∀ k, k ≠ o.ks → k ≠ o.kt → t.slotAt k = s.slotAt k
  res_kept : ∀ k, (t.slotAt k).res = (v.slotAt k).res
  mem_kept : t.mem = v.mem
  free_kept : t.freeBytes = v.freeBytes
  rest_kept : t = { afterAnswers s (exitRemaskEnd s j) with slots := t.slots, mem := t.mem, freeBytes := t.freeBytes }

theorem XtsMid.exit {o : XtsOperands} {s v : State} {j : Nat} (h : XtsMid o s v j) (hr : XtsReady o s) :
    XtsExit o s v (exitRemasked o v) j := by
  have hlen : o.ks.toNat < v.slots.length := h.slot_count ▸ hr.data_slot
  have hlen' : o.kt.toNat < (attempted o.ks v).slots.length := by
    simpa [attempted, State.setSlot, h.slot_count] using hr.tweak_slot
  have hdata : (exitRemasked o v).slotAt o.ks = afterRemask s j (v.slotAt o.ks) := by
    rw [exitRemasked, slotAt_attempted_ne _ hr.two_slots, slotAt_attempted_self _ hlen, h.drawnFrom.afterRemask,
      Nat.add_zero]
  have htweak : (exitRemasked o v).slotAt o.kt = afterRemask s (tweakRemaskAt s j) (v.slotAt o.kt) := by
    rw [exitRemasked, slotAt_attempted_self _ hlen', (drawnFrom_attempted o.ks v).afterRemask,
      h.drawnFrom.afterRemask, h.drawnFrom.remaskRequests, slotAt_attempted_ne _ hr.two_slots.symm]
    rfl
  have hother : ∀ k, k ≠ o.ks → k ≠ o.kt → (exitRemasked o v).slotAt k = v.slotAt k := fun k hk hk' => by
    rw [exitRemasked, slotAt_attempted_ne _ hk', slotAt_attempted_ne _ hk]
  have hres : ∀ k, ((exitRemasked o v).slotAt k).res = (v.slotAt k).res := fun k => by
    by_cases hk : k = o.ks
    · rw [hk, hdata, afterRemask_res]
    · by_cases hk' : k = o.kt
      · rw [hk', htweak, afterRemask_res]
      · rw [hother k hk hk']
  refine ⟨?_, ?_, fun k hk hk' => (hother k hk hk').trans (h.other_slots k hk hk'), hres, rfl, rfl, ?_⟩
  · rw [hres, hdata, h.slots_kept o.ks, afterRemask_with_res]
  · rw [hres, htweak, h.slots_kept o.kt, afterRemask_with_res]
  · have hend : exitRemaskEnd s j = j + remaskRequests v 0 + remaskRequests (attempted o.ks v) 0 := by
      rw [(drawnFrom_attempted o.ks v).remaskRequests, h.drawnFrom.remaskRequests, h.drawnFrom.remaskRequests]
      rfl
    rw [hend, Nat.add_assoc]
    refine Eq.trans ?_ (h.afterAnswers_eq _ _ _ _)
    rw [← afterAnswers_add]
    rfl

end Sys2Proof.Machine
end

section
/-! PROOFS. What an XTS command leaves when a draw fails, and when none does (R200 to R203, R220). -/

namespace Sys2Proof.Machine

/-! ## Keys under a re-masking -/

/-- Re-masking, answered or not, keeps the true key, the codes and the flags but MASKED. -/
theorem keys_afterRemask (s : State) (j : Nat) {sl sl' : Slot} {r : BitVec 64}
    (h : sl' = { afterRemask s j sl with res := r }) :
    sl'.trueKey = sl.trueKey ∧ sl'.alg = sl.alg ∧ sl'.icodeSet = sl.icodeSet ∧ sl'.sched = sl.sched ∧
      sl'.icode = sl.icode ∧ sl'.rkicode = sl.rkicode := by
  subst h
  cases hm : remaskAnswered s j with
  | true =>
    rw [afterRemask_of_answered hm]
    exact ⟨trueKey_freshlyMasked s j sl, freshlyMasked_alg s j sl, freshlyMasked_icodeSet s j sl,
      freshlyMasked_sched s j sl, freshlyMasked_icode s j sl, freshlyMasked_rkicode s j sl⟩
  | false =>
    rw [afterRemask_of_failed hm]
    exact ⟨rfl, rfl, rfl, rfl, rfl, rfl⟩

/-- Re-masking, answered or not, keeps the unmasked round keys. -/
theorem unmaskedKeys_afterRemask {compat : Bool} (s : State) (j : Nat) {sl sl' : Slot} {r : BitVec 64}
    (hi : sl.Inv compat) (h : sl' = { afterRemask s j sl with res := r }) :
    (xorBlocks sl'.ek sl'.em = xorBlocks sl.ek sl.em ∧ xorBlocks sl'.dk sl'.dm = xorBlocks sl.dk sl.dm) ∧
      (subWords sl'.fk sl'.fm = subWords sl.fk sl.fm ∧ subWords sl'.ik sl'.im = subWords sl.ik sl.im) := by
  subst h
  cases hm : remaskAnswered s j with
  | true =>
    rw [afterRemask_of_answered hm]
    exact unmaskedKeys_freshlyMasked hi s j
  | false =>
    rw [afterRemask_of_failed hm]
    exact ⟨⟨rfl, rfl⟩, rfl, rfl⟩

/-- An error's report changes status and HALTED only. -/
theorem State.failedWith_eq_with (t : State) (op : Byte) (e : CoreError) :
    t.failedWith op e = { t with
      code := (t.failedWith op e).code, errSub := (t.failedWith op e).errSub, errOp := (t.failedWith op e).errOp,
      errSlot := (t.failedWith op e).errSlot, faults := (t.failedWith op e).faults,
      halted := (t.failedWith op e).halted } := rfl

section
variable {o : XtsOperands} {s v t : State} {j : Nat}

/-- Each slot after the exit re-masking is the slot before it, or that slot re-masked, its counter aside. -/
theorem XtsExit.slotAt_cases (h : XtsExit o s v t j) (k : SlotIx) :
    t.slotAt k = s.slotAt k ∨ ∃ n, t.slotAt k = { afterRemask s n (s.slotAt k) with res := (t.slotAt k).res } := by
  by_cases hk : k = o.ks
  · exact .inr ⟨j, hk ▸ h.data_slot⟩
  · by_cases hk' : k = o.kt
    · exact .inr ⟨_, hk' ▸ h.tweak_slot⟩
    · exact .inl (h.other_slots k hk hk')

theorem XtsExit.keys_kept (h : XtsExit o s v t j) (k : SlotIx) :
    (t.slotAt k).trueKey = (s.slotAt k).trueKey ∧ (t.slotAt k).alg = (s.slotAt k).alg ∧
      (t.slotAt k).icodeSet = (s.slotAt k).icodeSet ∧ (t.slotAt k).sched = (s.slotAt k).sched ∧
      (t.slotAt k).icode = (s.slotAt k).icode ∧ (t.slotAt k).rkicode = (s.slotAt k).rkicode := by
  rcases h.slotAt_cases k with hk | ⟨n, hk⟩
  · rw [hk]
    exact ⟨rfl, rfl, rfl, rfl, rfl, rfl⟩
  · exact keys_afterRemask s n hk

theorem XtsExit.round_keys_kept (h : XtsExit o s v t j) (hs : s.Inv) (k : SlotIx) :
    (xorBlocks (t.slotAt k).ek (t.slotAt k).em = xorBlocks (s.slotAt k).ek (s.slotAt k).em ∧
      xorBlocks (t.slotAt k).dk (t.slotAt k).dm = xorBlocks (s.slotAt k).dk (s.slotAt k).dm) ∧
    (subWords (t.slotAt k).fk (t.slotAt k).fm = subWords (s.slotAt k).fk (s.slotAt k).fm ∧
      subWords (t.slotAt k).ik (t.slotAt k).im = subWords (s.slotAt k).ik (s.slotAt k).im) := by
  rcases h.slotAt_cases k with hk | ⟨n, hk⟩
  · rw [hk]
    exact ⟨⟨rfl, rfl⟩, rfl, rfl⟩
  · exact unmaskedKeys_afterRemask s n (hs.slotAt k) hk

/-- `E_ENTROPY` of an XTS command, reported on what its exit re-masking left. -/
theorem XtsExit.failed (h : XtsExit o s v t j) (hm : XtsMid o s v j) (hs : s.Inv) (op : Byte)
    (hinv : (t.failedWith op (.entropy o.ks)).Inv) : XtsFailed op o s (t.failedWith op (.entropy o.ks)) j where
  report := ⟨rfl, rfl, rfl, rfl, by rw [State.failedWith_faults, h.rest_kept]; rfl⟩
  data_slot := h.data_slot
  tweak_slot := h.tweak_slot
  other_slots := h.other_slots
  keys_kept := h.keys_kept
  round_keys_kept k := ⟨fun _ => (h.round_keys_kept hs k).1, fun _ => (h.round_keys_kept hs k).2⟩
  outside_kept a ha := (congrArg (memByte · a) h.mem_kept).trans (hm.outside_kept a ha)
  rest_kept := by
    have hhalted : (t.failedWith op (.entropy o.ks)).halted = s.halted := by
      rw [State.failedWith_halted, h.rest_kept]
      simp
    rw [State.failedWith_eq_with, hhalted, h.rest_kept]
    rfl
  inv := hinv

end

/-! ## The command -/

theorem xtsInstr_of_or {i : Instr} {o : XtsOperands}
    (h : i = .xtsEnc o.ks o.kt o.src o.dst o.len o.iv o.ivlen ∨ i = .xtsDec o.ks o.kt o.src o.dst o.len o.iv o.ivlen) :
    ∃ dir, i = xtsInstr dir o :=
  h.elim (fun h => ⟨.encrypt, h⟩) fun h => ⟨.decrypt, h⟩

theorem exec_xtsInstr {dir : Direction} {o : XtsOperands} {s : State} (h : refusalOf (xtsInstr dir o) s = none) :
    exec (xtsInstr dir o) s = finish (opcodeOf (xtsInstr dir o)) (xtsBody dir o s) := by
  cases dir <;> exact exec_of_no_draws h rfl

theorem dst_inside_of_passed {dir : Direction} {o : XtsOperands} {s : State} (h : refusalOf (xtsInstr dir o) s = none)
    (x : Nat) (hx : s.cfg.memSize ≤ x) : ¬ within x o.dst.toNat o.len.toNat := by
  have hp := passed_of_refusalOf h
  rw [commandChecks_xtsInstr] at hp
  exact not_within_of_passed (s := s) (dst := o.dst) (n := o.len.toNat) hp (by simp [xtsChecks]) x hx

/-- There is one first request that fails. -/
theorem first_failed_unique {s : State} {i j : Nat} (hi : answersOk s i) (hni : answerAt s i = none)
    (hj : answersOk s j) (hnj : answerAt s j = none) : i = j := by
  rcases Nat.lt_trichotomy i j with h | h | h
  · exact absurd hj (not_answersOk_of_none h hni)
  · exact h
  · exact absurd hi (not_answersOk_of_none h hnj)

/-- The effect of an XTS command one of whose tweak or data requests, the j-th, is the first that fails. -/
theorem xtsBody_of_failed_block {dir : Direction} {o : XtsOperands} {s : State}
    (h : refusalOf (xtsInstr dir o) s = none) (hr : XtsReady o s) (hiv : readable s o.iv.toNat o.ivlen.toNat)
    (hsrc : readable s o.src.toNat o.len.toNat) {j : Nat} (hj : j < xtsBlockDraws o s) (hok : answersOk s j)
    (hn : answerAt s j = none) :
    ∃ v, XtsMid o s v (j + 1) ∧ (∀ k, (v.slotAt k).res = (s.slotAt k).res) ∧
      xtsBody dir o s = .err (.entropy o.ks) (exitRemasked o v) := by
  obtain ⟨mem', hframe, hwf, ⟨hall, -⟩ | ⟨i, -, hoki, hni, hbody⟩⟩ := xtsProcess_of_readable dir hr hiv hsrc
  · exact absurd hall (not_answersOk_of_none hj hn)
  · obtain rfl := first_failed_unique hoki hni hok hn
    have hm := xtsMid_scramble hr (dst_inside_of_passed h) (i + 1) hframe hwf
    refine ⟨_, hm, fun _ => rfl, ?_⟩
    unfold xtsBody
    rw [hbody]
    exact (hm.exitRemask_eq hr _).trans (by split <;> rfl)

/-- The effect of an XTS command all of whose tweak and data requests are answered. -/
theorem xtsBody_of_answered {dir : Direction} {o : XtsOperands} {s : State}
    (h : refusalOf (xtsInstr dir o) s = none) (hr : XtsReady o s) (hiv : readable s o.iv.toNat o.ivlen.toNat)
    (hsrc : readable s o.src.toNat o.len.toNat) (hok : answersOk s (xtsBlockDraws o s)) :
    ∃ v, xtsProcess dir o s = .ok () v ∧ XtsMid o s v (xtsBlockDraws o s) ∧ v.freeBytes = s.freeBytes ∧
      (v.slotAt o.ks).res.toNat + o.len.toNat / sizeOfSlotBlock s o.ks = (s.slotAt o.ks).res.toNat ∧
      (v.slotAt o.kt).res.toNat + tweakCost s o.kt = (s.slotAt o.kt).res.toNat ∧
      xtsBody dir o s =
        reportFirst (if remaskAnswered s (xtsBlockDraws o s) &&
            remaskAnswered s (tweakRemaskAt s (xtsBlockDraws o s)) then none else some (.entropy o.ks))
          (exitRemasked o v) := by
  obtain ⟨mem', hframe, hwf, ⟨-, hbody⟩ | ⟨i, hi, -, hni, -⟩⟩ := xtsProcess_of_readable dir hr hiv hsrc
  · have hm := xtsMid_xtsSpent hr (dst_inside_of_passed h) (xtsBlockDraws o s) hframe hwf
    obtain ⟨hres, hres'⟩ := res_xtsSpent hr (xtsBlockDraws o s) mem'
    refine ⟨_, hbody, hm, rfl, hres, hres', ?_⟩
    unfold xtsBody
    rw [hbody]
    exact hm.exitRemask_eq hr none
  · exact absurd hok (not_answersOk_of_none hi hni)

/-- Settles O59: both failures end in `E_ENTROPY` on the state that the exit re-masking left. -/
theorem xtsLateFailure : Obligations.XtsLateFailure := by
  intro o s i hi hs h hiv hsrc b
  obtain ⟨dir, rfl⟩ := xtsInstr_of_or hi
  have hr := xtsReady_of_passed hs h
  refine ⟨fun j hj hok hn => ?_, fun hok hrem => ?_⟩
  · obtain ⟨v, hm, hres, hbody⟩ := xtsBody_of_failed_block h hr hiv hsrc hj hok hn
    have hexec := exec_xtsInstr h
    rw [hbody, finish_err, raise_eq] at hexec
    exact ⟨_, hexec, (hm.exit hr).failed hm hs _ ((exec_completes hexec).inv hs),
      fun k => ((hm.exit hr).res_kept k).trans (hres k)⟩
  · obtain ⟨v, -, hm, hfree, hres, hres', hbody⟩ := xtsBody_of_answered h hr hiv hsrc hok
    have hexec := exec_xtsInstr h
    rw [hbody, hrem] at hexec
    have hx := hm.exit hr
    exact ⟨_, hexec.trans (raise_eq _ _ _), hx.failed hm hs _ ((exec_completes (hexec.trans (raise_eq _ _ _))).inv hs),
      hx.free_kept.trans hfree, (congrArg (·.toNat + _) (hx.res_kept _)).trans hres,
      (congrArg (·.toNat + _) (hx.res_kept _)).trans hres'⟩

/-- The requests of two re-maskings that are answered. -/
theorem exitRemaskEnd_of_answered {s : State} {b : Nat} (hok : answersOk s (b + 6)) :
    remaskAnswered s b = true ∧ tweakRemaskAt s b = b + 3 ∧ remaskAnswered s (b + 3) = true ∧
      exitRemaskEnd s b = b + 6 := by
  have hthree : ∀ i, i + 3 ≤ b + 6 → remaskAnswered s i = true ∧ remaskRequests s i = 3 := fun i hi => by
    have h0 := hok i (by omega)
    have h1 := hok (i + 1) (by omega)
    have h2 := hok (i + 2) (by omega)
    rw [Option.isSome_iff_ne_none] at h0 h1
    simp_all [remaskAnswered, remaskRequests, Option.isSome_iff_ne_none]
  obtain ⟨hdata, hdata'⟩ := hthree b (by omega)
  obtain ⟨htweak, htweak'⟩ := hthree (b + 3) (Nat.le_refl _)
  have hat : tweakRemaskAt s b = b + 3 := by rw [tweakRemaskAt, hdata']
  exact ⟨hdata, hat, htweak, by rw [exitRemaskEnd, hat, htweak']⟩

/-- Settles O56: with all six requests of the exit re-masking answered, the command ends well on what it left. -/
theorem xtsCompletes : Obligations.XtsCompletes := by
  intro o s i hi hs h hiv hsrc hok
  obtain ⟨dir, rfl⟩ := xtsInstr_of_or hi
  have hr := xtsReady_of_passed hs h
  obtain ⟨hdata, hat, htweak, hlast⟩ := exitRemaskEnd_of_answered hok
  obtain ⟨v, -, hm, hfree, hres, hres', hbody⟩ :=
    xtsBody_of_answered h hr hiv hsrc fun j hj => hok j (by omega)
  have hexec := exec_xtsInstr h
  rw [hbody, hdata, hat, htweak] at hexec
  have hx := hm.exit hr
  have hdslot := hx.data_slot
  have htslot := hx.tweak_slot
  rw [afterRemask_of_answered hdata] at hdslot
  rw [hat, afterRemask_of_answered htweak] at htslot
  refine ⟨_, hexec, ?_, fun a ha => (congrArg (memByte · a) hx.mem_kept).trans (hm.outside_kept a ha), hx.other_slots,
    hx.keys_kept, ?_, ?_, ?_, ?_, (congrArg (·.toNat + _) (hx.res_kept _)).trans hres,
    (congrArg (·.toNat + _) (hx.res_kept _)).trans hres'⟩
  · have hrest := hx.rest_kept
    rw [hlast, hx.free_kept.trans hfree] at hrest
    exact congrArg (·.ended (opcodeOf (xtsInstr dir o))) hrest
  · exact (congrArg Slot.masked hdslot).trans (freshlyMasked_masked _ _ _)
  · exact (congrArg Slot.masked htslot).trans (freshlyMasked_masked _ _ _)
  · exact (congrArg Slot.mask hdslot).trans (freshlyMasked_mask _ _ _)
  · exact (congrArg Slot.mask htslot).trans (freshlyMasked_mask _ _ _)

end Sys2Proof.Machine
end

section
/-! PROOFS. The output of an XTS command block by block, and the round trip (R192 to R196, R204). -/

namespace Sys2Proof.Machine

/-! ## The output -/

theorem reportFirst_mem {op : Byte} {first : Option CoreError} {v t : State}
    (h : finish op (reportFirst first v) = .next t) : t.mem = v.mem := by
  cases first with
  | none =>
    obtain rfl := Host.Outcome.next.inj h
    rfl
  | some e =>
    obtain rfl := Host.Outcome.next.inj ((raise_eq op e v).symm.trans h)
    rfl

/-- Block n at `dst` when every tweak and data request was answered: the classical operation of the direction on block n
at `src`, under tw(n). -/
theorem memRead_of_xts {dir : Direction} {o : XtsOperands} {s t : State} (hs : s.Inv)
    (hiv : readable s o.iv.toNat o.ivlen.toNat) (hsrc : readable s o.src.toNat o.len.toNat)
    (hok : answersOk s (xtsBlockDraws o s)) (hsep : Separate o.src.toNat o.dst.toNat o.len.toNat)
    (h : refusalOf (xtsInstr dir o) s = none) (hexec : exec (xtsInstr dir o) s = .next t) {n : Nat}
    (hn : n < o.len.toNat / sizeOfSlotBlock s o.ks) :
    (bytesAt s (o.src.toNat + sizeOfSlotBlock s o.ks * n) (sizeOfSlotBlock s o.ks)).length = sizeOfSlotBlock s o.ks ∧
    memRead t.mem (o.dst.toNat + sizeOfSlotBlock s o.ks * n) (sizeOfSlotBlock s o.ks) =
      .ok (xtsCrypt (sizeOfSlotBlock s o.ks) (classicalBlock dir s.cfg.compat (s.slotAt o.ks))
        (tweakOfBlock (sizeOfSlotBlock s o.ks) (classicalTweak s.cfg.compat (s.slotAt o.kt)
          (ofBytes 128 (bytesAt s o.iv.toNat o.ivlen.toNat))) n)
        (bytesAt s (o.src.toNat + sizeOfSlotBlock s o.ks * n) (sizeOfSlotBlock s o.ks))) := by
  have hr := xtsReady_of_passed hs h
  obtain ⟨v, hprocess, -, -, -, -, hbody⟩ := xtsBody_of_answered h hr hiv hsrc hok
  rw [exec_xtsInstr h, hbody] at hexec
  obtain ⟨iv, hiv', hblocks⟩ := xtsProcess_output hr hsep hprocess
  obtain rfl : bytesAt s o.iv.toNat o.ivlen.toNat = iv := Except.ok.inj ((memRead_of_readable s _ _ hiv).symm.trans hiv')
  rw [← xtsBlockSize_eq] at hn ⊢
  obtain ⟨p, hp, hout⟩ := hblocks n hn
  have hrange : xtsBlockSize o s * (n + 1) ≤ o.len.toNat :=
    (Nat.mul_le_mul_left _ (Nat.succ_le_of_lt hn)).trans (Nat.mul_div_le _ _)
  rw [Nat.mul_succ] at hrange
  have hread := readable_of_subrange hsrc (Nat.le_add_right _ (xtsBlockSize o s * n)) (m := xtsBlockSize o s) (by omega)
  obtain rfl : bytesAt s (o.src.toNat + xtsBlockSize o s * n) (xtsBlockSize o s) = p :=
    Except.ok.inj ((memRead_of_readable s _ _ hread).symm.trans hp)
  refine ⟨((memRead_eq_ok _ _ _ _).1 hp).1, ?_⟩
  rw [reportFirst_mem hexec]
  exact hout

theorem separate_of_or {src dst : Addr} {n : Nat}
    (h : src = dst ∨ src.toNat + n ≤ dst.toNat ∨ dst.toNat + n ≤ src.toNat) : Separate src.toNat dst.toNat n :=
  h.imp_left (congrArg BitVec.toNat)

/-- Settles O57: the block XTS.DEC leaves is the one whose encryption stood at `src`, because the classical cipher
inverts its own inverse. -/
theorem xtsEncOutput : Obligations.XtsEncOutput := by
  intro o s t hs hiv hsrc hok hsep bd t0 tw enc
  have hout := fun dir => memRead_of_xts (dir := dir) (t := t) hs hiv hsrc hok (separate_of_or hsep)
  have hbd : bd = blockSize (s.slotAt o.ks).alg := (xtsBlockSize_eq o s).symm
  refine ⟨fun h hexec n hn => (hout .encrypt h hexec hn).2, fun h hexec n hn => ?_⟩
  obtain ⟨hlen, hread⟩ := hout .decrypt h hexec hn
  refine ⟨_, hread, ?_⟩
  refine xtsCrypt_xtsCrypt (n := bd) ?_ ?_ (hbd ▸ blockSize_le _) (tw n) hlen
  · rw [hbd]
    exact readsLow_classicalBlock .encrypt s.cfg.compat (s.slotAt o.ks)
  · rw [hbd]
    exact classicalEncrypt_classicalDecrypt s.cfg.compat (s.slotAt o.ks)

/-! ## The round trip -/

/-- An XTS command that succeeds passed its checks and processed every block; what it leaves of the memory is that
processing's, the true keys are as before, and no byte outside `dst` has changed. -/
theorem xts_of_code_zero {dir : Direction} {o : XtsOperands} {s t : State} (hs : s.Inv)
    (hexec : exec (xtsInstr dir o) s = .next t) (hcode : t.code = 0) :
    ∃ v, XtsReady o s ∧ xtsProcess dir o s = .ok () v ∧ t.mem = v.mem ∧ t.cfg = s.cfg ∧
      (∀ k, (t.slotAt k).alg = (s.slotAt k).alg ∧ (t.slotAt k).trueKey = (s.slotAt k).trueKey) ∧
      ∀ a, ¬ within a o.dst.toNat o.len.toNat → memByte t.mem a = memByte s.mem a := by
  rcases exec_eq_next hexec with ⟨w, heffect, h, -, rfl⟩ | ⟨e, w, -, -, rfl⟩
  swap
  · exact absurd hcode (ofNat_code_ne_zero e)
  have hr := xtsReady_of_passed hs h
  have hbody : xtsBody dir o s = .ok () w := by
    cases dir <;> exact heffect
  unfold xtsBody at hbody
  rcases xtsProcess_cases dir o s with ⟨n, mem', hframe, hwf, hp | hp⟩ | ⟨y, hp⟩ <;> rw [hp] at hbody
  · have hm := xtsMid_xtsSpent hr (dst_inside_of_passed h) n hframe hwf
    dsimp only at hbody
    rw [hm.exitRemask_eq hr] at hbody
    split at hbody
    · obtain rfl := (Res.ok.inj hbody).2
      have hx := hm.exit hr
      refine ⟨_, hr, hp, hx.mem_kept, (congrArg State.cfg hx.rest_kept :), fun k => ?_,
        fun a ha => (congrArg (memByte · a) hx.mem_kept).trans (hm.outside_kept a ha)⟩
      obtain ⟨hkey, halg, -⟩ := hx.keys_kept k
      exact ⟨halg, hkey⟩
    · nomatch hbody
  · have hm := xtsMid_scramble hr (dst_inside_of_passed h) n hframe hwf
    dsimp only at hbody
    rw [hm.exitRemask_eq hr] at hbody
    split at hbody <;> nomatch hbody
  · nomatch hbody

/-- Two memories that agree block by block on n blocks read alike. -/
theorem memRead_of_blocks {m m' : Memory} {a b bd n : Nat} (hbd : 0 < bd)
    (h : ∀ i < n, ∃ p, memRead m (a + bd * i) bd = .ok p ∧ memRead m' (b + bd * i) bd = .ok p) :
    memRead m' b (bd * n) = memRead m a (bd * n) := by
  have hbyte : ∀ j < bd * n, ∃ x, memByte m (a + j) = some x ∧ memByte m' (b + j) = some x := fun j hj => by
    obtain ⟨p, hp, hp'⟩ := h (j / bd) (Nat.div_lt_of_lt_mul hj)
    obtain ⟨hlen, hbytes⟩ := (memRead_eq_ok _ _ _ _).1 hp
    obtain ⟨-, hbytes'⟩ := (memRead_eq_ok _ _ _ _).1 hp'
    have hj' := Nat.mod_lt j hbd
    have hget := List.getElem?_eq_getElem (l := p) (i := j % bd) (by omega)
    have hread := hbytes _ hj'
    have hread' := hbytes' _ hj'
    rw [Nat.add_assoc, Nat.div_add_mod] at hread hread'
    exact ⟨_, hread.trans hget, hread'.trans hget⟩
  cases hread : memRead m a (bd * n) with
  | error x =>
    obtain ⟨⟨hle, hlt⟩, hnone, -⟩ := (memRead_eq_error _ _ _ _).1 hread
    obtain ⟨y, hy, -⟩ := hbyte (x - a) (by omega)
    rw [Nat.add_sub_cancel' hle, hnone] at hy
    nomatch hy
  | ok bs =>
    obtain ⟨hlen, hbytes⟩ := (memRead_eq_ok _ _ _ _).1 hread
    refine (memRead_eq_ok _ _ _ _).2 ⟨hlen, fun j hj => ?_⟩
    obtain ⟨y, hy, hy'⟩ := hbyte j hj
    rw [hy', ← hy, hbytes j hj]

/-- Settles O58: XTS.DEC finds the keys and the initial vector unchanged, so its tweaks are those of XTS.ENC. -/
theorem xtsRoundTrip : Obligations.XtsRoundTrip := by
  intro ks kt src mid dst len iv ivlen s t u hs hsep hsep' hivmid henc hcode hdec hcode'
  obtain ⟨v, hr, hprocess, hmem, hcfg, hkeys, houtside⟩ :=
    xts_of_code_zero (dir := .encrypt) (o := ⟨ks, kt, src, mid, len, iv, ivlen⟩) hs henc hcode
  have ht := (exec_completes henc).inv hs
  obtain ⟨w, hr', hprocess', hmem', -, -, -⟩ :=
    xts_of_code_zero (dir := .decrypt) (o := ⟨ks, kt, mid, dst, len, iv, ivlen⟩) ht hdec hcode'
  obtain ⟨b, hb, hblocks⟩ := xtsProcess_output hr (separate_of_or hsep) hprocess
  obtain ⟨b', hb', hblocks'⟩ := xtsProcess_output hr' (separate_of_or hsep') hprocess'
  have hiv : b' = b := Except.ok.inj <| hb'.symm.trans <|
    (memRead_eq_ok_congr (fun j hj => houtside _ (hivmid _ ⟨Nat.le_add_right _ _, Nat.add_lt_add_left hj _⟩)) b).2 hb
  obtain ⟨hdalg, hdkey⟩ := hkeys ks
  obtain ⟨htalg, htkey⟩ := hkeys kt
  simp only [xtsBlockSize, xtsDataBlocks, hdalg, hiv, hcfg, classicalTweak_congr htalg htkey,
    classicalBlock_congr hdalg hdkey] at hblocks hblocks'
  have hwhole := hr.whole_blocks
  simp only [xtsBlockSize, xtsDataBlocks] at hwhole
  rw [← hwhole, hmem']
  refine memRead_of_blocks (blockSize_pos _) fun i hi => ?_
  obtain ⟨p, hp, hout⟩ := hblocks i hi
  obtain ⟨p', hp', hout'⟩ := hblocks' i hi
  rw [hmem] at hp'
  obtain rfl := Except.ok.inj (hp'.symm.trans hout)
  rw [xtsCrypt_xtsCrypt (f := classicalBlock .encrypt s.cfg.compat (s.slotAt ks))
    (readsLow_classicalBlock .decrypt _ _) (classicalDecrypt_classicalEncrypt _ _) (blockSize_le _) _ ((memRead_eq_ok _ _ _ _).1 hp).1] at hout'
  exact ⟨p, hp, hout'⟩

end Sys2Proof.Machine
end

section
/-! SUPPORT. Two states that differ only in masks, masked values and draws to come: what they agree on, that every command
is refused in both or in neither, and how two runs are compared part by part (R33, R112). -/

namespace Sys2Proof.Machine

/-! ## What two alike states agree on -/

section
variable {s s' : State}

theorem Alike.cfg (h : Alike s s') : s'.cfg = s.cfg := (congrArg State.cfg h.rest :)
theorem Alike.tablesValid (h : Alike s s') : s'.tablesValid = s.tablesValid := (congrArg State.tablesValid h.rest :)
theorem Alike.halted (h : Alike s s') : s'.halted = s.halted := (congrArg State.halted h.rest :)
theorem Alike.mem (h : Alike s s') : s'.mem = s.mem := (congrArg State.mem h.rest :)
theorem Alike.freeBytes (h : Alike s s') : s'.freeBytes = s.freeBytes := (congrArg State.freeBytes h.rest :)

theorem Alike.alg (h : Alike s s') (k : SlotIx) : (s'.slotAt k).alg = (s.slotAt k).alg := (h.slots k).1

theorem Alike.trueKey (h : Alike s s') {k : SlotIx} (ha : (s.slotAt k).alg ≠ .empty) :
    (s'.slotAt k).trueKey = (s.slotAt k).trueKey := by
  obtain ⟨-, -, -, -, -, -, hkey⟩ := h.slots k
  exact hkey ha

theorem Alike.icodeSet (h : Alike s s') (k : SlotIx) : (s'.slotAt k).icodeSet = (s.slotAt k).icodeSet := by
  obtain ⟨-, -, hset, -, -, -, -⟩ := h.slots k
  exact hset

theorem Alike.sched (h : Alike s s') (k : SlotIx) : (s'.slotAt k).sched = (s.slotAt k).sched := by
  obtain ⟨-, -, -, hsched, -, -, -⟩ := h.slots k
  exact hsched

theorem Alike.icode (h : Alike s s') (k : SlotIx) : (s'.slotAt k).icode = (s.slotAt k).icode := by
  obtain ⟨-, -, -, -, hcode, -, -⟩ := h.slots k
  exact hcode

theorem Alike.res (h : Alike s s') (k : SlotIx) : (s'.slotAt k).res = (s.slotAt k).res := by
  obtain ⟨-, -, -, -, -, hres, -⟩ := h.slots k
  exact hres

theorem Alike.answerAt_eq_none (h : Alike s s') (j : Nat) : answerAt s' j = none ↔ answerAt s j = none := by
  rw [← Option.not_isSome_iff_eq_none, ← Option.not_isSome_iff_eq_none, h.answers j]

theorem Alike.answersOk (h : Alike s s') (n : Nat) : answersOk s' n ↔ answersOk s n :=
  forall₂_congr fun j _ => by rw [h.answers j]

theorem Alike.remaskAnswered (h : Alike s s') (j : Nat) : remaskAnswered s' j = remaskAnswered s j := by
  simp only [Machine.remaskAnswered, h.answers]

theorem Alike.remaskRequests (h : Alike s s') (j : Nat) : remaskRequests s' j = remaskRequests s j := by
  simp only [Machine.remaskRequests, Option.isNone_iff_eq_none, h.answerAt_eq_none]

end

theorem SlotAlike.refl (sl : Slot) : SlotAlike sl sl := ⟨rfl, rfl, rfl, rfl, rfl, rfl, fun _ => rfl⟩

/-! ## The updates keep two states alike -/

/-- Alike states with the same fields outside the slots and the entropy source put in place are alike. -/
theorem Alike.with_rest {s s' t t' : State} (h : Alike s s') (hslots : t.slots = s.slots) (hslots' : t'.slots = s'.slots)
    (he : t.entropy = s.entropy) (he' : t'.entropy = s'.entropy) (hf : t.fills = s.fills) (hf' : t'.fills = s'.fills)
    (hrest : t' = { t with slots := t'.slots, entropy := t'.entropy, fills := t'.fills }) : Alike t t' where
  rest := hrest
  slots k := by
    rw [State.slotAt, State.slotAt, hslots, hslots']
    exact h.slots k
  answers j := by
    rw [answerAt, answerAt, he, he', hf, hf']
    exact h.answers j

theorem Alike.afterAnswers {s s' : State} (h : Alike s s') (n : Nat) : Alike (afterAnswers s n) (afterAnswers s' n) where
  rest := (congrArg (fun t : State => { t with entropy := s'.entropy.drop n, fills := s'.fills + n }) h.rest :)
  slots := h.slots
  answers j := by
    rw [answerAt_afterAnswers, answerAt_afterAnswers]
    exact h.answers _

theorem Alike.store {s s' : State} (h : Alike s s') (a : Nat) (bs : List Byte) : Alike (s.store a bs) (s'.store a bs) :=
  h.with_rest rfl rfl rfl rfl rfl rfl (congrArg (fun t : State => t.store a bs) h.rest :)

theorem Alike.scramble {s s' : State} (h : Alike s s') (a n : Nat) : Alike (s.scramble a n) (s'.scramble a n) :=
  h.with_rest rfl rfl rfl rfl rfl rfl (congrArg (fun t : State => t.scramble a n) h.rest :)

theorem Alike.setSlot {s s' : State} (h : Alike s s') (hlen : s'.slots.length = s.slots.length) (k : SlotIx)
    {sl sl' : Slot} (hsl : SlotAlike sl sl') : Alike (s.setSlot k sl) (s'.setSlot k sl') where
  rest := (congrArg (fun t : State => { t with slots := s'.slots.set k.toNat sl' }) h.rest :)
  slots j := by
    by_cases hj : j = k
    · subst hj
      by_cases hlt : j.toNat < s.slots.length
      · rw [slotAt_setSlot_self _ _ _ hlt, slotAt_setSlot_self _ _ _ (hlen ▸ hlt)]
        exact hsl
      · have hout : s.setSlot j sl = s ∧ s'.setSlot j sl' = s' := by
          unfold State.setSlot
          rw [List.set_eq_of_length_le (by omega), List.set_eq_of_length_le (by omega)]
          exact ⟨rfl, rfl⟩
        rw [hout.1, hout.2]
        exact h.slots j
    · rw [slotAt_setSlot_ne _ _ _ _ hj, slotAt_setSlot_ne _ _ _ _ hj]
      exact h.slots j
  answers := h.answers

theorem Alike.ended {s s' : State} (h : Alike s s') (op : Byte) : Alike (s.ended op) (s'.ended op) :=
  h.with_rest rfl rfl rfl rfl rfl rfl (congrArg (fun t : State => t.ended op) h.rest :)

theorem Alike.failedWith {s s' : State} (h : Alike s s') (op : Byte) (e : CoreError) :
    Alike (s.failedWith op e) (s'.failedWith op e) :=
  h.with_rest rfl rfl rfl rfl rfl rfl (congrArg (fun t : State => t.failedWith op e) h.rest :)

/-! ## Two runs of a part of a command -/

/-- Two ends of a part of a command that the host cannot tell apart: the same value, error or stop, in alike states. -/
inductive ResAlike {α : Type} : Res α → Res α → Prop where
  | ok (a : α) {t t' : State} (h : Alike t t') : ResAlike (.ok a t) (.ok a t')
  | err (e : CoreError) {t t' : State} (h : Alike t t') : ResAlike (.err e t) (.err e t')
  | stop (f : Fault) : ResAlike (.stop f) (.stop f)

theorem ResAlike.bind {α β : Type} {r r' : Res α} {k k' : α → State → Res β} (h : ResAlike r r')
    (hk : ∀ a t t', r = .ok a t → r' = .ok a t' → Alike t t' → ResAlike (k a t) (k' a t')) :
    ResAlike (r.bind k) (r'.bind k') := by
  cases h with
  | ok a ht => exact hk a _ _ rfl rfl ht
  | err e ht => exact .err e ht
  | stop f => exact .stop f

theorem resAlike_readBytes {s s' : State} (h : Alike s s') (a n : Nat) :
    ResAlike (readBytes a n s) (readBytes a n s') := by
  unfold readBytes
  rw [h.mem]
  cases memRead s.mem a n with
  | ok bs => exact .ok bs h
  | error x => exact .stop _

/-- A part that draws: either all its n requests are answered and it ends as `done`, or it ends with `E_ENTROPY` at the
first that fails. -/
def DrawsTo {α : Type} (who : SlotIx) (s : State) (n : Nat) (r done : Res α) : Prop :=
  (answersOk s n ∧ r = done) ∨
    ∃ j < n, answersOk s j ∧ answerAt s j = none ∧ r = .err (.entropy who) (afterAnswers s (j + 1))

/-- Parts that draw alike end alike, if their ends with every request answered are alike. -/
theorem resAlike_of_drawsTo {α : Type} {who : SlotIx} {s s' : State} {n : Nat} {r r' done done' : Res α}
    (h : Alike s s') (hr : DrawsTo who s n r done) (hr' : DrawsTo who s' n r' done')
    (hdone : answersOk s n → ResAlike done done') : ResAlike r r' := by
  rcases hr with ⟨hok, rfl⟩ | ⟨j, hj, hok, hn, rfl⟩ <;> rcases hr' with ⟨hok', rfl⟩ | ⟨j', hj', hok', hn', rfl⟩
  · exact hdone hok
  · exact absurd ((h.answersOk n).2 hok) (not_answersOk_of_none hj' hn')
  · exact absurd ((h.answersOk n).1 hok') (not_answersOk_of_none hj hn)
  · obtain rfl := first_failed_unique hok hn ((h.answersOk j').1 hok') ((h.answerAt_eq_none j').1 hn')
    exact .err _ (h.afterAnswers _)

/-- Alike ends of the effect give alike completions. -/
theorem exists_alike_of_finish {op : Byte} {r r' : Res Unit} {t : State} (h : ResAlike r r')
    (ht : finish op r = .next t) : ∃ t', finish op r' = .next t' ∧ Alike t t' := by
  cases h with
  | ok a hu =>
    obtain rfl := Host.Outcome.next.inj ht
    exact ⟨_, rfl, hu.ended op⟩
  | err e hu =>
    obtain rfl := Host.Outcome.next.inj ((raise_eq op e _).symm.trans ht)
    exact ⟨_, raise_eq op e _, hu.failedWith op e⟩
  | stop f => nomatch ht

/-! ## The checks -/

/-- Steps 1 to 4 of R217. -/
def headSteps (i : Instr) (s : State) : List (Bool × CoreError) :=
  [(s.halted, .isHalted)] ++ (slotFields i).map (fun k => (!slotBelow s.cfg.nSlots k, .slotRange k)) ++
    emptyStep s i ++ configStep s i

/-- Steps 5 to 8 of R217. -/
def tailSteps (i : Instr) (s : State) : List (Bool × CoreError) :=
  lengthStep s i ++ tablesStep s i ++ integrityStep s i ++ resourceStep s i

theorem refusalOf_eq_or (i : Instr) (s : State) :
    refusalOf i s = (firstFailure (headSteps i s)).or (firstFailure (tailSteps i s)) := by
  rw [← firstFailure_append]
  simp only [refusalOf, headSteps, tailSteps, List.append_assoc]

/-- A command that passes steps 1 to 4 finds a key in every slot it names, and a schedule where it needs one. -/
theorem key_and_sched_of_headSteps {i : Instr} {s : State} (h : firstFailure (headSteps i s) = none) {k : SlotIx}
    (hk : k ∈ slotFields i) :
    (needsKey i = true → (s.slotAt k).alg ≠ .empty) ∧ (needsSchedule i = true → (s.slotAt k).sched = true) := by
  rw [firstFailure_eq_none] at h
  refine ⟨fun hi => ?_, fun hi => ?_⟩
  · have hempty : ∀ c ∈ emptyStep s i, c.1 = false := fun c hc => h c (by simp [headSteps, hc])
    cases hfields : slotFields i with
    | nil =>
      rw [hfields] at hk
      exact absurd hk List.not_mem_nil
    | cons ks kts =>
      rw [hfields] at hk
      simp only [emptyStep, hi, if_true, hfields] at hempty
      rcases List.mem_cons.1 hk with rfl | hk'
      · simpa using hempty _ List.mem_cons_self
      · simpa using hempty (_, .emptyTweak k) (List.mem_cons_of_mem _ (List.mem_map_of_mem hk'))
  · have := h (!(s.slotAt k).sched, .unscheduled k) (by simp [headSteps, configStep, hi, hk])
    simpa using this

theorem roundCode_eq_of_inv {compat : Bool} {sl : Slot} (h : sl.Inv compat) (hs : sl.sched = true)
    (ha : sl.alg ≠ .empty) : sl.roundCode = sl.rkicode := by
  unfold Slot.roundCode
  cases halg : sl.alg with
  | empty => exact absurd halg ha
  | kuz =>
    obtain ⟨hek, hdk, hcode⟩ := h.kuz_schedule hs halg
    exact (congrArg₂ kzRoundCode hek hdk).trans hcode.symm
  | magma =>
    obtain ⟨hfk, hik, hcode⟩ := h.magma_schedule hs halg
    exact (congrArg₂ mgRoundCode hfk hik).trans hcode.symm

theorem Alike.headSteps {s s' : State} (h : Alike s s') (i : Instr) : headSteps i s' = headSteps i s := by
  simp only [Machine.headSteps, emptyStep, configStep, h.halted, h.cfg, h.alg, h.icodeSet, h.sched]

theorem Alike.sizeOfSlotBlock {s s' : State} (h : Alike s s') (k : SlotIx) :
    sizeOfSlotBlock s' k = sizeOfSlotBlock s k := by
  rw [Machine.sizeOfSlotBlock, h.alg, Machine.sizeOfSlotBlock]

theorem Alike.tweakCost {s s' : State} (h : Alike s s') (k : SlotIx) : tweakCost s' k = tweakCost s k := by
  rw [Machine.tweakCost, h.alg, Machine.tweakCost]

theorem Alike.keyStep {s s' : State} (h : Alike s s') {k : SlotIx} (ha : (s.slotAt k).alg ≠ .empty) :
    keyStep s' k = keyStep s k := by
  simp only [Machine.keyStep, h.icodeSet, h.icode, h.trueKey ha]

/-- Step 7 of R217 for the slots of a command that passed steps 1 to 4: the round-key code of a schedule that meets the
invariant is intact in both states. -/
theorem Alike.integrityStep {s s' : State} (h : Alike s s') (hs : s.Inv) (hs' : s'.Inv) {i : Instr}
    (hhead : firstFailure (Machine.headSteps i s) = none) : integrityStep s' i = integrityStep s i := by
  have hslot := fun k (hk : k ∈ slotFields i) => key_and_sched_of_headSteps hhead hk
  have hround : ∀ k, (s.slotAt k).alg ≠ .empty → (s.slotAt k).sched = true →
      ((s'.slotAt k).roundCode != (s'.slotAt k).rkicode) = ((s.slotAt k).roundCode != (s.slotAt k).rkicode) :=
    fun k ha hsched => by
      rw [roundCode_eq_of_inv (hs.slotAt k) hsched ha,
        roundCode_eq_of_inv (hs'.slotAt k) (h.sched k ▸ hsched) (h.alg k ▸ ha), bne_self_eq_false, bne_self_eq_false]
  cases i with
  | kchkicode ks | kzSched ks | mgSched ks => exact h.keyStep ((hslot ks List.mem_cons_self).1 rfl)
  | kzEnc ks src dst | kzDec ks src dst | mgEnc ks src dst | mgDec ks src dst =>
    obtain ⟨ha, hsched⟩ := hslot ks List.mem_cons_self
    simp only [Machine.integrityStep, h.keyStep (ha rfl), hround ks (ha rfl) (hsched rfl)]
  | xtsEnc ks kt src dst len iv ivlen | xtsDec ks kt src dst len iv ivlen =>
    obtain ⟨ha, hsched⟩ := hslot ks List.mem_cons_self
    obtain ⟨ha', hsched'⟩ := hslot kt (List.mem_cons_of_mem _ List.mem_cons_self)
    simp only [Machine.integrityStep, h.keyStep (ha rfl), hround ks (ha rfl) (hsched rfl), h.keyStep (ha' rfl),
      hround kt (ha' rfl) (hsched' rfl)]
  | _ => rfl

theorem Alike.tailSteps {s s' : State} (h : Alike s s') (hs : s.Inv) (hs' : s'.Inv) {i : Instr}
    (hhead : firstFailure (Machine.headSteps i s) = none) : tailSteps i s' = tailSteps i s := by
  have hlength : lengthStep s' i = lengthStep s i := by
    cases i <;> simp only [lengthStep, beyond, h.sizeOfSlotBlock, h.cfg]
  have htables : tablesStep s' i = tablesStep s i := by
    cases i <;> simp only [tablesStep, h.alg, h.tablesValid]
  have hresource : resourceStep s' i = resourceStep s i := by
    cases i <;> simp only [resourceStep, h.sizeOfSlotBlock, h.tweakCost, h.res]
  rw [Machine.tailSteps, hlength, htables, h.integrityStep hs hs' hhead, hresource, Machine.tailSteps]

/-- Alike states refuse a command both, for the same reason, or neither. -/
theorem Alike.refusalOf {s s' : State} (h : Alike s s') (hs : s.Inv) (hs' : s'.Inv) (i : Instr) :
    refusalOf i s' = refusalOf i s := by
  rw [refusalOf_eq_or, refusalOf_eq_or, h.headSteps]
  cases hhead : firstFailure (Machine.headSteps i s) with
  | none => rw [h.tailSteps hs hs' hhead]
  | some e => rfl

end Sys2Proof.Machine
end

section
/-! SUPPORT. Every update of a slot and every part of an XTS command keeps two runs alike (R33, R112). -/

namespace Sys2Proof.Machine

/-! ## Updates of a slot -/

theorem slotAlike_created (sl sl' : Slot) (a : Alg) (m m' : KeyBytes) (r : BitVec 64) :
    SlotAlike (sl.created a m r) (sl'.created a m' r) :=
  ⟨rfl, rfl, rfl, rfl, rfl, rfl, fun _ => by rw [trueKey_created, trueKey_created]⟩

theorem slotAlike_destroyedSlot (s s' : State) (k : SlotIx) : SlotAlike (destroyedSlot s k) (destroyedSlot s' k) := by
  unfold destroyedSlot
  split <;> split <;> exact ⟨rfl, rfl, rfl, rfl, rfl, rfl, fun h => absurd rfl h⟩

section
variable {sl sl' : Slot}

theorem SlotAlike.loaded (h : SlotAlike sl sl') (v : KeyBytes) : SlotAlike (sl.loaded v) (sl'.loaded v) := by
  obtain ⟨halg, hmasked, -, hsched, -, hres, -⟩ := h
  exact ⟨halg, hmasked, rfl, hsched, rfl, hres, fun _ => by rw [trueKey_loaded, trueKey_loaded]⟩

theorem SlotAlike.unmasked (h : SlotAlike sl sl') : SlotAlike sl.unmasked sl'.unmasked := by
  obtain ⟨halg, -, hset, hsched, hcode, hres, hkey⟩ := h
  refine ⟨by simpa, by simp, by simpa, by simpa, by simpa, by simpa, fun ha => ?_⟩
  rw [trueKey_unmasked, trueKey_unmasked]
  exact hkey (by simpa using ha)

theorem SlotAlike.certified (h : SlotAlike sl sl') (ha : sl.alg ≠ .empty) : SlotAlike sl.certified sl'.certified := by
  obtain ⟨halg, hmasked, -, hsched, -, hres, hkey⟩ := h
  exact ⟨halg, hmasked, rfl, hsched, congrArg keyCode (hkey ha), hres, hkey⟩

theorem SlotAlike.kzScheduled (h : SlotAlike sl sl') (d1 d2 d1' d2' : BitVec 1280) :
    SlotAlike (sl.kzScheduled d1 d2) (sl'.kzScheduled d1' d2') := by
  obtain ⟨halg, hmasked, hset, -, hcode, hres, hkey⟩ := h
  exact ⟨halg, hmasked, hset, rfl, hcode, hres, hkey⟩

theorem SlotAlike.mgScheduled (h : SlotAlike sl sl') (c c' : Bool) (d1 d2 d1' d2' : KeyBytes) :
    SlotAlike (sl.mgScheduled c d1 d2) (sl'.mgScheduled c' d1' d2') := by
  obtain ⟨halg, hmasked, hset, -, hcode, hres, hkey⟩ := h
  exact ⟨halg, hmasked, hset, rfl, hcode, hres, hkey⟩

theorem SlotAlike.unscheduledKz (h : SlotAlike sl sl') (d1 d2 d3 d4 d1' d2' d3' d4' : BitVec 1280) :
    SlotAlike (sl.overwriteKz d1 d2 d3 d4).unscheduled (sl'.overwriteKz d1' d2' d3' d4').unscheduled := by
  obtain ⟨halg, hmasked, hset, -, hcode, hres, hkey⟩ := h
  exact ⟨halg, hmasked, hset, rfl, hcode, hres, hkey⟩

theorem SlotAlike.unscheduledMg (h : SlotAlike sl sl') (d1 d2 d3 d4 d1' d2' d3' d4' : KeyBytes) :
    SlotAlike (sl.overwriteMg d1 d2 d3 d4).unscheduled (sl'.overwriteMg d1' d2' d3' d4').unscheduled := by
  obtain ⟨halg, hmasked, hset, -, hcode, hres, hkey⟩ := h
  exact ⟨halg, hmasked, hset, rfl, hcode, hres, hkey⟩

theorem SlotAlike.spend (h : SlotAlike sl sl') (n : Nat) : SlotAlike (sl.spend n) (sl'.spend n) := by
  obtain ⟨halg, hmasked, hset, hsched, hcode, hres, hkey⟩ := h
  exact ⟨halg, hmasked, hset, hsched, hcode, congrArg (· - _) hres, hkey⟩

/-- A slot under fresh masks is like any other with the same key under fresh masks. -/
theorem SlotAlike.remaskedWith {s s' : State} {m m' : Slot} (h : SlotAlike sl sl') (ha : sl.alg ≠ .empty)
    (hm : RemaskedWith s sl m) (hm' : RemaskedWith s' sl' m') : SlotAlike m m' := by
  obtain ⟨hkey, -, -, hrest, -, -⟩ := hm
  obtain ⟨hkey', -, -, hrest', -, -⟩ := hm'
  obtain ⟨halg, -, hset, hsched, hcode, hres, hold⟩ := h
  refine ⟨?_, ?_, ?_, ?_, ?_, ?_, fun _ => by rw [hkey, hkey', hold ha]⟩ <;> rw [hrest, hrest']
  exacts [halg, hset, hsched, hcode, hres]

theorem SlotAlike.afterRemask {s s' : State} (h : SlotAlike sl sl') (j : Nat)
    (hans : remaskAnswered s' j = remaskAnswered s j) : SlotAlike (afterRemask s j sl) (afterRemask s' j sl') := by
  obtain ⟨halg, -, hset, hsched, hcode, hres, hkey⟩ := id h
  cases hm : remaskAnswered s j with
  | true =>
    rw [afterRemask_of_answered hm, afterRemask_of_answered (hans.trans hm)]
    exact ⟨by simpa, by simp, by simpa, by simpa, by simpa, by simpa, by simpa⟩
  | false =>
    rwa [afterRemask_of_failed hm, afterRemask_of_failed (hans.trans hm)]

end

/-! ## The XTS chain -/

theorem Alike.rawDraws {s s' : State} (h : Alike s s') (k : SlotIx) : rawDraws s' k = rawDraws s k := by
  rw [Machine.rawDraws, h.alg, Machine.rawDraws]

theorem Alike.slot_count {s s' : State} (h : Alike s s') (hs : s.Inv) (hs' : s'.Inv) :
    s'.slots.length = s.slots.length := by
  rw [hs'.slot_count, hs.slot_count, h.cfg]

/-- In alike states that meet the invariant a key's classical operations are the same. -/
theorem Alike.classicalBlock {s s' : State} (h : Alike s s') {k : SlotIx} (ha : (s.slotAt k).alg ≠ .empty)
    (dir : Direction) :
    classicalBlock dir s'.cfg.compat (s'.slotAt k) = classicalBlock dir s.cfg.compat (s.slotAt k) := by
  rw [h.cfg, classicalBlock_congr (h.alg k) (h.trueKey ha)]

theorem resAlike_rawBlock {dir : Direction} {who k : SlotIx} {f : Block → Block} {s s' : State} (h : Alike s s')
    (hf : RawIs dir k f s) (hf' : RawIs dir k f s') (x : Block) :
    ResAlike (rawBlock dir who k x s) (rawBlock dir who k x s') := by
  have hcases' := rawBlock_cases dir who k x s'
  rw [h.rawDraws] at hcases'
  refine resAlike_of_drawsTo h (rawBlock_cases dir who k x s) hcases' fun _ => ?_
  rw [hf s rfl rfl, hf' s' rfl rfl]
  exact .ok _ (h.afterAnswers _)

theorem resAlike_xtsBlocks {dir : Direction} {ks : SlotIx} {f : Block → Block} (src dst bd m n : Nat) (x : Block)
    {s s' : State} (h : Alike s s') (hf : RawIs dir ks f s) (hf' : RawIs dir ks f s') :
    ResAlike (xtsBlocks dir ks src dst bd m n x s) (xtsBlocks dir ks src dst bd m n x s') := by
  induction m generalizing n x s s' with
  | zero => exact .ok _ h
  | succ m ih =>
    refine (resAlike_readBytes h _ _).bind fun p t t' hr hr' _ => ?_
    obtain ⟨rfl, -⟩ := readBytes_eq_ok hr
    obtain ⟨rfl, -⟩ := readBytes_eq_ok hr'
    refine (resAlike_rawBlock h hf hf' _).bind fun c u u' hr hr' hu => ?_
    obtain ⟨-, -, rfl⟩ := rawBlock_eq_ok hr
    obtain ⟨-, -, rfl⟩ := rawBlock_eq_ok hr'
    exact ih _ _ (hu.store _ _) hf hf'

theorem resAlike_initialTweak {who k : SlotIx} {s s' : State} (h : Alike s s')
    (hf : RawIs .encrypt k f s) (hf' : RawIs .encrypt k f s') (x : Block) :
    ResAlike (initialTweak who k x s) (initialTweak who k x s') := by
  unfold initialTweak
  rw [h.alg]
  cases (s.slotAt k).alg with
  | magma =>
    refine (resAlike_rawBlock h hf hf' _).bind fun lo t t' hr hr' ht => ?_
    obtain ⟨-, -, rfl⟩ := rawBlock_eq_ok hr
    obtain ⟨-, -, rfl⟩ := rawBlock_eq_ok hr'
    exact (resAlike_rawBlock ht hf hf' _).bind fun hi u u' _ _ hu => .ok _ hu
  | _ => exact resAlike_rawBlock h hf hf' x

theorem Alike.xtsBlockSize {s s' : State} (h : Alike s s') (o : XtsOperands) : xtsBlockSize o s' = xtsBlockSize o s :=
  congrArg blockSize (h.alg o.ks)

theorem Alike.xtsDataBlocks {s s' : State} (h : Alike s s') (o : XtsOperands) : xtsDataBlocks o s' = xtsDataBlocks o s :=
  congrArg (o.len.toNat / ·) (h.xtsBlockSize o)

theorem Alike.xtsTweakBlocks {s s' : State} (h : Alike s s') (o : XtsOperands) :
    xtsTweakBlocks o s' = xtsTweakBlocks o s :=
  congrArg tweakBlocks (h.alg o.kt)

theorem Alike.xtsSpent {s s' : State} {o : XtsOperands} (h : Alike s s') (hlen : s'.slots.length = s.slots.length) :
    Alike (xtsSpent o s) (xtsSpent o s') := by
  have hspent := h.setSlot hlen o.ks ((h.slots o.ks).spend (Machine.xtsDataBlocks o s))
  unfold Machine.xtsSpent
  rw [h.xtsDataBlocks, h.xtsTweakBlocks]
  exact hspent.setSlot (by simpa [State.setSlot] using hlen) o.kt ((hspent.slots o.kt).spend _)

theorem xtsBlocks_slots {dir : Direction} {ks : SlotIx} {src dst bd m n : Nat} {x : Block} {s t : State}
    (h : xtsBlocks dir ks src dst bd m n x s = .ok () t) : t.slots = s.slots := by
  rcases xtsBlocks_cases dir ks src dst bd m n x s with ⟨mem', -, -, ⟨-, hr⟩ | ⟨j, -, -, -, hr⟩⟩ | ⟨y, hr⟩ <;>
    rw [hr] at h
  · obtain rfl := (Res.ok.inj h).2
    rfl
  · nomatch h
  · nomatch h

/-- Steps 1 to 4 of R200 in two alike states that meet the invariants. -/
theorem resAlike_xtsProcess (dir : Direction) {o : XtsOperands} {s s' : State} (h : Alike s s') (hr : XtsReady o s)
    (hr' : XtsReady o s') : ResAlike (xtsProcess dir o s) (xtsProcess dir o s') := by
  have hdata := rawIs_of_inv hr.inv hr.data_key hr.data_sched dir
  have hdata' := rawIs_of_inv hr'.inv hr'.data_key hr'.data_sched dir
  have htweak := rawIs_of_inv hr.inv hr.tweak_key hr.tweak_sched .encrypt
  have htweak' := rawIs_of_inv hr'.inv hr'.tweak_key hr'.tweak_sched .encrypt
  rw [h.classicalBlock hr.data_key] at hdata'
  rw [h.classicalBlock hr.tweak_key] at htweak'
  refine (resAlike_readBytes h _ _).bind fun b t t' hb hb' _ => ?_
  obtain ⟨rfl, -⟩ := readBytes_eq_ok hb
  obtain ⟨rfl, -⟩ := readBytes_eq_ok hb'
  refine (resAlike_initialTweak h htweak htweak' _).bind fun x u u' hx hx' hu => ?_
  obtain ⟨-, rfl⟩ := initialTweak_eq_ok hx
  obtain ⟨-, rfl⟩ := initialTweak_eq_ok hx'
  rw [hu.xtsBlockSize, hu.xtsDataBlocks]
  refine (resAlike_xtsBlocks _ _ _ _ _ _ hu hdata hdata').bind fun _ v v' hv hv' hvv => .ok _ (hvv.xtsSpent ?_)
  rw [xtsBlocks_slots hv, xtsBlocks_slots hv']
  exact h.slot_count hr.inv hr'.inv

/-! ## The exit re-masking -/

theorem Alike.attempted {s s' : State} (h : Alike s s') (hlen : s'.slots.length = s.slots.length) (k : SlotIx) :
    Alike (attempted k s) (attempted k s') := by
  unfold Machine.attempted
  rw [h.remaskRequests]
  exact (h.afterAnswers _).setSlot hlen k ((h.slots k).afterRemask 0 (h.remaskAnswered 0))

theorem attempted_slot_count (k : SlotIx) (s : State) : (attempted k s).slots.length = s.slots.length :=
  List.length_set

theorem Alike.exitRemasked {s s' : State} (h : Alike s s') (hlen : s'.slots.length = s.slots.length)
    (o : XtsOperands) : Alike (exitRemasked o s) (exitRemasked o s') :=
  (h.attempted hlen o.ks).attempted (by rw [attempted_slot_count, attempted_slot_count, hlen]) o.kt

theorem resAlike_reportFirst {s s' : State} (h : Alike s s') (first : Option CoreError) :
    ResAlike (reportFirst first s) (reportFirst first s') := by
  cases first with
  | none => exact .ok _ h
  | some e => exact .err e h

/-- The exit re-masking of two alike states. -/
theorem resAlike_exitRemask {o : XtsOperands} {s s' v v' : State} {n n' : Nat} (h : Alike v v') (hr : XtsReady o s)
    (hr' : XtsReady o s') (hm : XtsMid o s v n) (hm' : XtsMid o s' v' n') (first : Option CoreError) :
    ResAlike (exitRemask o first v) (exitRemask o first v') := by
  have hexit := fun {s v : State} {n : Nat} (hr : XtsReady o s) (hm : XtsMid o s v n) =>
    exitRemask_eq hm.inv hr.two_slots (hm.sched_eq o.ks ▸ hr.data_sched) (hm.alg_eq o.ks ▸ hr.data_key)
      (hm.sched_eq o.kt ▸ hr.tweak_sched) (hm.alg_eq o.kt ▸ hr.tweak_key) first
  have hat : tweakRemaskAt v' 0 = tweakRemaskAt v 0 := congrArg (0 + ·) (h.remaskRequests 0)
  rw [hexit hr hm, hexit hr' hm', hat, h.remaskAnswered, h.remaskAnswered]
  exact resAlike_reportFirst (h.exitRemasked (h.slot_count hm.inv hm'.inv) o) _

theorem exists_xtsMid {dir : Direction} {o : XtsOperands} {s : State} (h : refusalOf (xtsInstr dir o) s = none)
    (hr : XtsReady o s) :
    (∀ v, xtsProcess dir o s = .ok () v → ∃ n, XtsMid o s v n) ∧
      ∀ e w, xtsProcess dir o s = .err e w → ∃ n, XtsMid o s (w.scramble o.dst.toNat o.len.toNat) n := by
  rcases xtsProcess_cases dir o s with ⟨n, mem', hframe, hwf, hp | hp⟩ | ⟨y, hp⟩ <;> rw [hp] <;>
    refine ⟨fun v hv => ?_, fun e w hw => ?_⟩
  · obtain rfl := (Res.ok.inj hv).2
    exact ⟨n, xtsMid_xtsSpent hr (dst_inside_of_passed h) n hframe hwf⟩
  · nomatch hw
  · nomatch hv
  · obtain rfl := (Res.err.inj hw).2
    exact ⟨n, xtsMid_scramble hr (dst_inside_of_passed h) n hframe hwf⟩
  · nomatch hv
  · nomatch hw

/-- The effect of an XTS command in two alike states that meet the invariants. -/
theorem resAlike_xtsBody {dir : Direction} {o : XtsOperands} {s s' : State} (h : Alike s s') (hs : s.Inv)
    (hs' : s'.Inv) (hp : refusalOf (xtsInstr dir o) s = none) : ResAlike (xtsBody dir o s) (xtsBody dir o s') := by
  have hp' : refusalOf (xtsInstr dir o) s' = none := (h.refusalOf hs hs' _).trans hp
  have hr := xtsReady_of_passed hs hp
  have hr' := xtsReady_of_passed hs' hp'
  obtain ⟨hok, herr⟩ := exists_xtsMid hp hr
  obtain ⟨hok', herr'⟩ := exists_xtsMid hp' hr'
  have hprocess := resAlike_xtsProcess dir h hr hr'
  unfold xtsBody
  generalize hx : xtsProcess dir o s = r at hprocess
  generalize hx' : xtsProcess dir o s' = r' at hprocess
  cases hprocess with
  | ok _ hv =>
    obtain ⟨n, hm⟩ := hok _ hx
    obtain ⟨n', hm'⟩ := hok' _ hx'
    exact resAlike_exitRemask hv hr hr' hm hm' none
  | err e hw =>
    obtain ⟨n, hm⟩ := herr e _ hx
    obtain ⟨n', hm'⟩ := herr' e _ hx'
    exact resAlike_exitRemask (hw.scramble _ _) hr hr' hm hm' _
  | stop f => exact .stop f

end Sys2Proof.Machine
end

section
/-! PROOFS. Masks, masked values and draws never reach `MEM`, the status registers or an answer to the host (R33, R112). -/

namespace Sys2Proof.Machine

/-! ## The commands -/

section
variable {s s' : State}

/-- The effect of KZ.ENC and KZ.DEC, of whose pipelines the true key decides the output. -/
theorem resAlike_kzBlockBody (h : Alike s s') (hlen : s'.slots.length = s.slots.length) {f : Slot → Block → Block}
    {ks : SlotIx} (hf : f (s'.slotAt ks) = f (s.slotAt ks)) (src dst : Addr) :
    ResAlike (kzBlockBody f ks src dst s) (kzBlockBody f ks src dst s') := by
  refine (resAlike_readBytes h _ _).bind fun b t t' hr hr' _ => ?_
  obtain ⟨rfl, -⟩ := readBytes_eq_ok hr
  obtain ⟨rfl, -⟩ := readBytes_eq_ok hr'
  rw [hf]
  exact .ok _ ((h.store _ _).setSlot hlen ks ((h.slots ks).spend 1))

/-- The effect of MG.ENC and MG.DEC: the true key decides the output, whatever was drawn. -/
theorem resAlike_mgBlockEffect (h : Alike s s') (hs : s.Inv) (hs' : s'.Inv) {ord : List Nat}
    (hord : ord = encOrder ∨ ord = decOrder) {ks : SlotIx} (ha : (s.slotAt ks).alg = .magma)
    (hsched : (s.slotAt ks).sched = true) (src dst : Addr) :
    ResAlike (mgBlockEffect ord ks src dst s) (mgBlockEffect ord ks src dst s') := by
  have hkey : (s'.slotAt ks).trueKey = (s.slotAt ks).trueKey := h.trueKey (by rw [ha]; decide)
  have hout : mgDrawnOutput ord s' ks = mgDrawnOutput ord s ks := funext fun b => by
    unfold mgDrawnOutput
    rw [mgCryptWith_of_inv (hs.slotAt ks) ha hsched hord (by simp),
      mgCryptWith_of_inv (hs'.slotAt ks) ((h.alg ks).trans ha) ((h.sched ks).trans hsched) hord (by simp), hkey, h.cfg]
  refine (resAlike_readBytes (h.afterAnswers 32) _ _).bind fun b t t' hr hr' ht => ?_
  obtain ⟨rfl, -⟩ := readBytes_eq_ok hr
  obtain ⟨rfl, -⟩ := readBytes_eq_ok hr'
  rw [hout]
  exact .ok _ ((ht.store _ _).setSlot (h.slot_count hs hs') ks ((h.slots ks).spend 1))

/-- After n requests one slot is replaced by an alike one. -/
theorem Alike.drawnSlot (h : Alike s s') (hlen : s'.slots.length = s.slots.length) (n : Nat) (k : SlotIx)
    {sl sl' : Slot} (hsl : SlotAlike sl sl') :
    ResAlike (.ok () ((Machine.afterAnswers s n).setSlot k sl)) (.ok () ((Machine.afterAnswers s' n).setSlot k sl')) :=
  .ok _ ((h.afterAnswers n).setSlot hlen k hsl)

theorem length_remaskDraws_alike (h : Alike s s') (k : SlotIx) :
    (remaskDraws s' k).length = (remaskDraws s k).length := by
  unfold remaskDraws
  dsimp only
  rw [h.sched, h.alg]

/-- The effect of every command in two alike states that meet the invariants. -/
theorem resAlike_effectOf (h : Alike s s') (hs : s.Inv) (hs' : s'.Inv) {i : Instr} (hp : refusalOf i s = none) :
    ResAlike (effectOf i s) (effectOf i s') := by
  have hlen := h.slot_count hs hs'
  have hchecks := passed_of_refusalOf hp
  have hhead : firstFailure (headSteps i s) = none := by
    rw [refusalOf_eq_or] at hp
    exact (Option.or_eq_none_iff.1 hp).1
  have hkey := fun k (hk : k ∈ slotFields i) => (key_and_sched_of_headSteps hhead hk).1
  have hsched := fun k (hk : k ∈ slotFields i) => (key_and_sched_of_headSteps hhead hk).2
  cases i with
  | gfmul x y dst => exact .ok _ (h.store _ _)
  | tbuild =>
    exact .ok _ (h.with_rest rfl rfl rfl rfl rfl rfl
      (congrArg (fun t : State => { t with tablesValid := true }) h.rest :))
  | kcreate ks alg =>
    have hres : initialResource s' (algCreated alg) = initialResource s (algCreated alg) := by
      unfold initialResource
      rw [h.cfg]
    refine h.drawnSlot hlen 1 ks ?_
    rw [hres]
    exact slotAlike_created _ _ _ _ _ _
  | kload ks src =>
    refine (resAlike_readBytes h _ _).bind fun b t t' hr hr' ht => ?_
    obtain ⟨rfl, -⟩ := readBytes_eq_ok hr
    obtain ⟨rfl, -⟩ := readBytes_eq_ok hr'
    exact .ok _ (h.setSlot hlen ks ((h.slots ks).loaded _))
  | ksetmask ks | kzRemask ks | mgRemask ks =>
    have ha := hkey ks List.mem_cons_self rfl
    have hremask := (h.slots ks).remaskedWith ha (remaskedWith_remaskedSlot (hs.slotAt ks) ha)
      (remaskedWith_remaskedSlot (hs'.slotAt ks) (h.alg ks ▸ ha))
    have hslot := h.drawnSlot hlen (remaskDraws s ks).length ks hremask
    rw [effectOf, effectOf, length_remaskDraws_alike h]
    exact hslot
  | kunmask ks => exact .ok _ (h.setSlot hlen ks (h.slots ks).unmasked)
  | kseticode ks => exact .ok _ (h.setSlot hlen ks ((h.slots ks).certified (hkey ks List.mem_cons_self rfl)))
  | kchkicode ks => exact .ok _ h
  | kdestroy ks => exact h.drawnSlot hlen 6 ks (slotAlike_destroyedSlot s s' ks)
  | kzSched ks => exact h.drawnSlot hlen 2 ks ((h.slots ks).kzScheduled _ _ _ _)
  | kzEnc ks src dst =>
    have ha : (s.slotAt ks).alg = .kuz := alg_eq_of_passed (s := s) hchecks (by simp [commandChecks, kzBlockChecks])
    refine resAlike_kzBlockBody h hlen (funext fun a => ?_) src dst
    have hs1 := hsched ks List.mem_cons_self rfl
    rw [kzEncrypt_of_inv (hs.slotAt ks) ha hs1, kzEncrypt_of_inv (hs'.slotAt ks) ((h.alg ks).trans ha)
      ((h.sched ks).trans hs1), h.trueKey (hkey ks List.mem_cons_self rfl)]
  | kzDec ks src dst =>
    have ha : (s.slotAt ks).alg = .kuz := alg_eq_of_passed (s := s) hchecks (by simp [commandChecks, kzBlockChecks])
    refine resAlike_kzBlockBody h hlen (funext fun a => ?_) src dst
    have hs1 := hsched ks List.mem_cons_self rfl
    rw [kzDecrypt_of_inv (hs.slotAt ks) ha hs1, kzDecrypt_of_inv (hs'.slotAt ks) ((h.alg ks).trans ha)
      ((h.sched ks).trans hs1), h.trueKey (hkey ks List.mem_cons_self rfl)]
  | kzDelkeys ks => exact h.drawnSlot hlen 4 ks ((h.slots ks).unscheduledKz _ _ _ _ _ _ _ _)
  | mgSched ks => exact h.drawnSlot hlen 2 ks ((h.slots ks).mgScheduled _ _ _ _ _ _)
  | mgEnc ks src dst =>
    have ha : (s.slotAt ks).alg = .magma := alg_eq_of_passed (s := s) hchecks (by simp [commandChecks, mgBlockChecks])
    exact resAlike_mgBlockEffect h hs hs' (.inl rfl) ha (hsched ks List.mem_cons_self rfl) src dst
  | mgDec ks src dst =>
    have ha : (s.slotAt ks).alg = .magma := alg_eq_of_passed (s := s) hchecks (by simp [commandChecks, mgBlockChecks])
    exact resAlike_mgBlockEffect h hs hs' (.inr rfl) ha (hsched ks List.mem_cons_self rfl) src dst
  | mgDelkeys ks => exact h.drawnSlot hlen 4 ks ((h.slots ks).unscheduledMg _ _ _ _ _ _ _ _)
  | xtsEnc ks kt src dst len iv ivlen =>
    exact resAlike_xtsBody (dir := .encrypt) (o := ⟨ks, kt, src, dst, len, iv, ivlen⟩) h hs hs' hp
  | xtsDec ks kt src dst len iv ivlen =>
    exact resAlike_xtsBody (dir := .decrypt) (o := ⟨ks, kt, src, dst, len, iv, ivlen⟩) h hs hs' hp

theorem length_drawsOf_alike (h : Alike s s') (i : Instr) : (drawsOf i s').length = (drawsOf i s).length := by
  cases i with
  | ksetmask ks | kzRemask ks | mgRemask ks => exact length_remaskDraws_alike h ks
  | kdestroy ks => rw [length_drawsOf_kdestroy, length_drawsOf_kdestroy]
  | _ => rfl

/-- A passed command is its completion of a part that draws and then has the command's effect. -/
theorem exec_eq_finish_of_passed {i : Instr} (hp : refusalOf i s = none) :
    ∃ r, exec i s = finish (opcodeOf i) r ∧ DrawsTo (reportedSlot i) s (drawsOf i s).length r (effectOf i s) := by
  rcases exec_of_passed hp with ⟨hok, he⟩ | ⟨j, hj, hok, hn, he⟩
  · exact ⟨_, he, .inl ⟨hok, rfl⟩⟩
  · exact ⟨_, he, .inr ⟨j, hj, hok, hn, rfl⟩⟩

theorem exists_alike_of_raise (h : Alike s s') {op : Byte} {e : CoreError} {t : State} (ht : raise op e s = .next t) :
    ∃ t', raise op e s' = .next t' ∧ Alike t t' :=
  exists_alike_of_finish (.err e h) ht

/-- Every command in two alike states that meet the invariants. -/
theorem exists_alike_of_exec (h : Alike s s') (hs : s.Inv) (hs' : s'.Inv) {i : Instr} {t : State}
    (ht : exec i s = .next t) : ∃ t', exec i s' = .next t' ∧ Alike t t' := by
  have hrefusal := h.refusalOf hs hs' i
  cases hp : refusalOf i s with
  | some e =>
    rw [exec_of_refused hp] at ht
    rw [exec_of_refused (hrefusal.trans hp)]
    exact exists_alike_of_raise h ht
  | none =>
    obtain ⟨r, hr, hdraws⟩ := exec_eq_finish_of_passed hp
    obtain ⟨r', hr', hdraws'⟩ := exec_eq_finish_of_passed (hrefusal.trans hp)
    rw [length_drawsOf_alike h] at hdraws'
    rw [hr] at ht
    rw [hr']
    exact exists_alike_of_finish (resAlike_of_drawsTo h hdraws hdraws' fun _ => resAlike_effectOf h hs hs' hp) ht

/-! ## The host's side -/

theorem Alike.withReply (h : Alike s s') (r : HostReply) : Alike { s with reply := r } { s' with reply := r } :=
  h.with_rest rfl rfl rfl rfl rfl rfl (congrArg (fun u : State => { u with reply := r }) h.rest :)

theorem SlotAlike.statusRegister {sl sl' : Slot} (h : SlotAlike sl sl') (r : Nat) :
    sl'.statusRegister r = sl.statusRegister r := by
  obtain ⟨halg, hmasked, hset, hsched, -, hres, -⟩ := h
  simp only [Slot.statusRegister, Slot.statWord, halg, hmasked, hset, hsched, hres]

/-- The status space reads the same in alike states (R36 to R41). -/
theorem Alike.statusAt (h : Alike s s') (hs : s.Inv) (off : Nat) : s'.statusAt off = s.statusAt off := by
  have hstatus : s'.statusWord = s.statusWord := (congrArg State.statusWord h.rest :)
  have herrinfo : s'.errinfoWord = s.errinfoWord := (congrArg State.errinfoWord h.rest :)
  have hfaults : s'.faults = s.faults := (congrArg State.faults h.rest :)
  have hslot : ∀ j < s.cfg.nSlots, ∀ r,
      (s'.slots.getD j Slot.blank).statusRegister r = (s.slots.getD j Slot.blank).statusRegister r := fun j hj r => by
    have hmax : s.cfg.nSlots ≤ 16 := by
      have := hs.config_valid
      simp only [Config.valid, Bool.and_eq_true, decide_eq_true_eq] at this
      omega
    have hslots := h.slots (BitVec.ofNat 4 j)
    rw [State.slotAt, State.slotAt, BitVec.toNat_ofNat, Nat.mod_eq_of_lt (by omega)] at hslots
    exact hslots.statusRegister r
  have hregister : (if (off - 0x100) / 0x10 < s.cfg.nSlots then
        (s'.slots.getD ((off - 0x100) / 0x10) Slot.blank).statusRegister ((off - 0x100) % 0x10) else 0) =
      if (off - 0x100) / 0x10 < s.cfg.nSlots then
        (s.slots.getD ((off - 0x100) / 0x10) Slot.blank).statusRegister ((off - 0x100) % 0x10) else 0 := by
    split
    · exact hslot _ ‹_› _
    · rfl
  unfold State.statusAt
  dsimp only
  rw [hstatus, herrinfo, hfaults, h.cfg, hregister]

end

/-- Settles O60: every command, by its refusal and its effect; the host's own actions read and write nothing in which
alike states differ. -/
theorem masksAndDrawsNeverReachTheHost : Obligations.MasksAndDrawsNeverReachTheHost := by
  intro a s s' t hs hs' h ht
  cases a with
  | command d =>
    have hpresented : presented s' d = presented s d := by rw [presented, h.halted, h.cfg, presented]
    simp only [perform, hpresented] at ht ⊢
    cases hp : presented s d with
    | error e =>
      rw [hp] at ht
      exact exists_alike_of_raise h ht
    | ok i =>
      rw [hp] at ht
      exact exists_alike_of_exec h hs hs' ht
  | write addr bytes =>
    obtain ⟨hin, rfl⟩ := hostWrite_eq_next ht
    have hin' : insideMem s' addr bytes.length = true := by rwa [insideMem, h.cfg]
    exact ⟨_, hostWrite_of_insideMem hin', h.store _ _⟩
  | read addr n =>
    have hin : insideMem s' addr n = insideMem s addr n := by rw [insideMem, h.cfg, insideMem]
    have hread : hostRead addr n s = .next t := ht
    unfold hostRead at hread
    split at hread
    · cases hr : memRead s.mem addr.toNat n with
      | ok bs =>
        rw [hr] at hread
        obtain rfl := Host.Outcome.next.inj hread
        exact ⟨_, hostRead_of_memRead_eq_ok (hin.trans ‹_›) (h.mem ▸ hr), h.withReply _⟩
      | error x =>
        rw [hr] at hread
        nomatch hread
    · nomatch hread
  | status off =>
    obtain rfl := Host.Outcome.next.inj ht
    have hreply : perform (.status off) s' = .next { s' with reply := .word (s.statusAt off.toNat) } := by
      rw [← h.statusAt hs]
      rfl
    exact ⟨_, hreply, h.withReply _⟩
  | reset cfg =>
    obtain ⟨hvalid, rfl⟩ := platformReset_eq_next ht
    exact ⟨_, if_pos hvalid, {
      rest := (congrArg (fun u : State => { State.resetWith cfg with
        port := u.port, entropy := s'.entropy, fills := s'.fills, freeBytes := u.freeBytes }) h.rest :)
      slots := fun _ => SlotAlike.refl _
      answers := h.answers }⟩

end Sys2Proof.Machine
end
